-- ==== Sys2Proof/Word.lean ====
section
/-! DEFINITION. The bit-vector types of the block (00_scope.md R11, R14): bit 0 is the least significant bit. -/

namespace Sys2Proof

/-- A raw byte, and the eight used bits of STATUS. -/
abbrev Byte := BitVec 8

/-- A 12-bit composite (00_scope.md R21). -/
abbrev Composite := BitVec 12

/-- A register word, a command word, a word on the host port. -/
abbrev Word := BitVec 32

/-- The width of R and M2. -/
abbrev DWord := BitVec 64

/-- The HIDX field: a register index (20_memory.md R80). -/
abbrev Index := BitVec 6

/-- The 39-bit access record of 30_encoding.md R119. -/
abbrev AccessRecord := BitVec 39

end Sys2Proof
end

