-- ==== Sys2Proof/Config.lean ====
section
/-! DEFINITION. What TLVCORE version 1 fixes (00_scope.md R12, 10_state.md R44) and the free values: constants with no body,
so that nothing can be proved about the value an implementation gives them. -/

namespace Sys2Proof.Config

/-- FIELD_LSB_UT (R12): microtesla per code. -/
def fieldLsbUt : Int := 98

/-- TEMP_OFFSET (R12). -/
def tempOffset : Int := 320

/-- TEMP_LSB_DC (R12): tenths of a degree Celsius per code. -/
def tempLsbDc : Int := 11

/-- SIGN_THRESHOLD (R12). -/
def signThreshold : Nat := 2048

/-- SIGN_MODULUS (R12). -/
def signModulus : Int := 4096

/-- STATUS_MASK (R12, R211). -/
def statusMask : Byte := 0x03#8

/-- TEMP_HI_MASK (R12). -/
def tempHiMask : Byte := 0xF0#8

/-- ID (R44): "TLV" and version 1. -/
def idValue : Word := 0x544C5601#32

/-- FREE VALUE (42_angle.md R181 part 2, 93 I1; log 3). Which of the two faithful codes the implementation's ATAN unit gives
for the operands (x, y) of an open quadrant: true for the ceiling, false for the floor. A function of the operands alone
(R181 part 3). -/
opaque atanRoundsUp (x y : Int) : Bool

/-- FREE VALUE (00_scope.md R13, 70_reset_and_hazards.md R269, 93 I2; log 2). How many steps beyond the first the
command word `w`, accepted as the `n`-th, takes to commit. -/
opaque extraLatency (w : Word) (n : Nat) : Nat

/-- FREE VALUE (20_memory.md R84, 93 I15; log 8). TLV_BASE, the platform's byte address of slot 0. -/
opaque tlvBase : Nat

/-- LAT(op) of the `n`-th accepted command, in steps of the model. 70_reset_and_hazards.md R269: `LAT(op) >= 1`. -/
def latency (w : Word) (n : Nat) : Nat := extraLatency w n + 1

end Sys2Proof.Config
end

