-- ==== Sys2Proof/Syntax.lean ====
section
/-! DEFINITION. The commands of TLVCORE, one constructor per row of spec/opcode_table.json (30_encoding.md R112). No command
has an operand field (R115): what a command reads it reads from the capture latches. -/

namespace Sys2Proof

/-- The ten legal commands. -/
inductive Instr where
  /-- NOP, 44_update_control.md R210. -/
  | nop
  /-- SEXT12, 40_unpack.md R140. -/
  | sext12
  /-- DECAX.L (NSEL = 0), 40_unpack.md R142. -/
  | decaxL
  /-- DECAX.H (NSEL = 1), 40_unpack.md R143. -/
  | decaxH
  /-- DECT, 40_unpack.md R145. -/
  | dect
  /-- CONVF, 41_scale.md R160. -/
  | convf
  /-- CONVT, 41_scale.md R162. -/
  | convt
  /-- ANGLE, 42_angle.md R184. -/
  | angle
  /-- MAGSQ, 43_magsq.md R200. -/
  | magsq
  /-- UPDATE, 44_update_control.md R212. -/
  | update
  deriving DecidableEq, Repr

end Sys2Proof
end

