-- ==== Sys2Proof/Machine/Port.lean ====
section
/-! DEFINITION. The register map (10_state.md R45) and what the outside world can ask of the port: the accesses of
20_memory.md R81 and R82 and the host statements of 30_encoding.md R117. -/

namespace Sys2Proof.Machine

/-- The registers the host can name (10_state.md R45). -/
inductive Reg where
  | cmd | status | a | b | c | rLo | rHi
  | raw0 | raw1 | raw2 | raw3 | raw4 | raw5 | raw6
  | cX | cY | cZ | cT
  | bX | bY | bZ | temp
  | phiXY | phiYZ | phiXZ
  | m2Lo | m2Hi
  | id
  deriving DecidableEq, Repr

/-- The index column of R45. -/
def regIndex (r : Reg) : Index :=
  match r with
  | .cmd => 0x00#6 | .status => 0x01#6 | .a => 0x02#6 | .b => 0x03#6 | .c => 0x04#6 | .rLo => 0x05#6 | .rHi => 0x06#6
  | .raw0 => 0x08#6 | .raw1 => 0x09#6 | .raw2 => 0x0A#6 | .raw3 => 0x0B#6 | .raw4 => 0x0C#6 | .raw5 => 0x0D#6 | .raw6 => 0x0E#6
  | .cX => 0x10#6 | .cY => 0x11#6 | .cZ => 0x12#6 | .cT => 0x13#6
  | .bX => 0x14#6 | .bY => 0x15#6 | .bZ => 0x16#6 | .temp => 0x17#6
  | .phiXY => 0x18#6 | .phiYZ => 0x19#6 | .phiXZ => 0x1A#6
  | .m2Lo => 0x1B#6 | .m2Hi => 0x1C#6
  | .id => 0x3F#6

/-- R45 read by index: the register at `idx`, or none where the index is reserved (20_memory.md R83). -/
def regAt (idx : Index) : Option Reg :=
  match idx.toNat with
  | 0x00 => some .cmd | 0x01 => some .status
  | 0x02 => some .a | 0x03 => some .b | 0x04 => some .c
  | 0x05 => some .rLo | 0x06 => some .rHi
  | 0x08 => some .raw0 | 0x09 => some .raw1 | 0x0A => some .raw2 | 0x0B => some .raw3
  | 0x0C => some .raw4 | 0x0D => some .raw5 | 0x0E => some .raw6
  | 0x10 => some .cX | 0x11 => some .cY | 0x12 => some .cZ | 0x13 => some .cT
  | 0x14 => some .bX | 0x15 => some .bY | 0x16 => some .bZ | 0x17 => some .temp
  | 0x18 => some .phiXY | 0x19 => some .phiYZ | 0x1A => some .phiXZ
  | 0x1B => some .m2Lo | 0x1C => some .m2Hi
  | 0x3F => some .id
  | _ => none

/-- One access of the host port (20_memory.md R80 to R82): HWE, HIDX and HWDATA of a cycle with HSEL = 1. -/
inductive Access where
  | read (idx : Index)
  | write (idx : Index) (v : Word)
  deriving DecidableEq, Repr

/-- The slot whose four bytes `addr` lies in (20_memory.md R84: slot idx is at byte offset `4 * idx` from TLV_BASE). -/
def busSlot (addr : Nat) : Index := BitVec.ofNat 6 ((addr - Config.tlvBase) / 4)

/-- What the host can do in one step of its program (30_encoding.md R117), and three acts of the outside world that the
spec describes and R117's syntax has no word for: sampling the output BUSYO (60_exceptions.md R239; log 17), a byte-bus access
through a platform bridge (20_memory.md R84, R87; log 8) and driving the RST input (70_reset_and_hazards.md R260; log 7). Labels are resolved to positions. -/
inductive HostStmt where
  /-- `wr NAME, imm` and `rd NAME`. -/
  | access (acc : Access)
  /-- `bnz NAME, mask, label`. -/
  | bnz (idx : Index) (mask : Word) (target : Nat)
  /-- `b label`. -/
  | b (target : Nat)
  /-- Sample BUSYO, with no access, and go to `target` while it is 1 (60_exceptions.md R239). -/
  | bBusyo (target : Nat)
  /-- A byte-bus write of `size` bytes at byte address `addr`. -/
  | busWrite (addr size : Nat) (v : Word)
  /-- A byte-bus read of `size` bytes at byte address `addr`. -/
  | busRead (addr size : Nat)
  /-- Drive RST to a level. -/
  | rst (level : Bool)
  deriving DecidableEq, Repr

end Sys2Proof.Machine
end

