-- ==== Sys2Proof/Machine/State.lean ====
section
/-! DEFINITION. The state of the block and of the host that drives it (10_state.md), the reasons a step can stop, and the
state right after reset (70_reset_and_hazards.md R260). Plain data throughout. -/

namespace Sys2Proof.Machine

/-- RAW0 to RAW6 (10_state.md R34). -/
structure RawBlock where
  raw0 : Byte
  raw1 : Byte
  raw2 : Byte
  raw3 : Byte
  raw4 : Byte
  raw5 : Byte
  raw6 : Byte
  deriving DecidableEq, Repr

/-- CX, CY, CZ and CT, stored `sext_32` (10_state.md R36). -/
structure CodeBank where
  cX : Word
  cY : Word
  cZ : Word
  cT : Word
  deriving DecidableEq, Repr

/-- The SensorReading (10_state.md R37 to R41). -/
structure ReadingBank where
  bX : Word
  bY : Word
  bZ : Word
  temp : Word
  phiXY : Word
  phiYZ : Word
  phiXZ : Word
  m2 : DWord
  deriving DecidableEq, Repr

/-- The capture latches `cap[A]`, `cap[B]`, `cap[C]`, `cap[RAW0]` to `cap[RAW6]` (10_state.md R46). -/
structure Capture where
  a : Word
  b : Word
  c : Word
  raw : RawBlock
  deriving DecidableEq, Repr

/-- The host as an agent (10_state.md R30, R31; log 1): its program and the position of its next statement. -/
structure HostAgent where
  program : List HostStmt
  position : Nat
  deriving DecidableEq, Repr

/-- The machine. -/
structure State where
  /-- Operand register A (R32). -/
  a : Word
  /-- Operand register B (R32). -/
  b : Word
  /-- Operand register C (R32). -/
  c : Word
  /-- Result register R (R33). -/
  r : DWord
  /-- The raw register block (R34). -/
  raw : RawBlock
  /-- The code bank (R36). -/
  codes : CodeBank
  /-- The reading bank (R40). -/
  reading : ReadingBank
  /-- STATUS bits 7:0 (R43); bits 31:8 are RAZ/WI. -/
  status : Byte
  /-- The capture latches (R46). -/
  cap : Capture
  /-- The accepted command word, or none (R46). -/
  inflight : Option Word
  /-- The latency counter (R46; log 2): the steps to the commit, the commit's own included. -/
  latency : Nat
  /-- The level of RST (20_memory.md R80; log 7). -/
  rst : Bool
  /-- HRDATA, some word after a read request (20_memory.md R80; log 5). -/
  hrdata : Option Word
  /-- The host (R30). -/
  host : HostAgent
  /-- The MODEL's own: how many commands have been accepted; the free latency is drawn at it (log 2). -/
  acceptCount : Nat
  deriving DecidableEq, Repr

/-- What stops the machine. No command of the spec raises one; the block itself never hangs (60_exceptions.md R234). -/
inductive Fault where
  /-- Raised by the commit step when the word in flight decodes to no command. SAFE: the machine stops, and only in states
  no run reaches, since only legal words are accepted (60_exceptions.md R230; log 6). -/
  | undecodableInFlight (w : Word)
  deriving DecidableEq, Repr

/-- What the model gives no meaning. -/
inductive Refusal where
  /-- An instruction whose arm has no meaning yet: none. SAFE. -/
  | notModelled (mnemonic : String)
  /-- Raised by a bridge access that is not one whole aligned word. SAFE: 20_memory.md R87 has a model refuse it (log 8). -/
  | partialWordAccess (addr size : Nat)
  /-- Raised by a bridge access at an address outside the 64-slot window. SAFE: it is no access of this block (R84; log 8). -/
  | outsideWindow (addr : Nat)
  deriving DecidableEq, Repr

/-- 10_state.md R45: the raw block at reset. -/
def RawBlock.reset : RawBlock := ⟨0#8, 0#8, 0#8, 0#8, 0#8, 0#8, 0#8⟩

/-- 10_state.md R45: the code bank at reset. -/
def CodeBank.reset : CodeBank := ⟨0#32, 0#32, 0#32, 0#32⟩

/-- 10_state.md R45, 70_reset_and_hazards.md R260: "initialized to zero at session construction". -/
def ReadingBank.reset : ReadingBank := ⟨0#32, 0#32, 0#32, 0#32, 0#32, 0#32, 0#32, 0#64⟩

/-- DESIGN CHOICE (log 4): the spec leaves the latches' contents open after reset, and no rule reads them. -/
def Capture.reset : Capture := ⟨0#32, 0#32, 0#32, RawBlock.reset⟩

/-- DESIGN CHOICE (log 1): no program is loaded. -/
def HostAgent.reset : HostAgent := ⟨[], 0⟩

/-- 70_reset_and_hazards.md R260: the machine right after reset. The capture latches (log 4), the latency counter (log 11),
RST (log 7), HRDATA (log 5), the host (log 1) and acceptCount (log 2) are DESIGN CHOICES. -/
def State.reset : State where
  a := 0#32
  b := 0#32
  c := 0#32
  r := 0#64
  raw := RawBlock.reset
  codes := CodeBank.reset
  reading := ReadingBank.reset
  status := 0#8
  cap := Capture.reset
  inflight := none
  latency := 0
  rst := false
  hrdata := none
  host := HostAgent.reset
  acceptCount := 0

end Sys2Proof.Machine
end

