-- ==== Sys2Proof/Machine/Flags.lean ====
section
/-! DEFINITION. The fields of STATUS (10_state.md R43): where each stands, and how one is read and written. -/

namespace Sys2Proof.Machine

/-- The eight fields of STATUS. -/
inductive Flag where
  | busy | ok | nrdy | ill | ovr | deg0 | deg1 | deg2
  deriving DecidableEq, Repr

/-- The bits column of R43. -/
def flagBit (f : Flag) : Nat :=
  match f with
  | .busy => 0
  | .ok => 1
  | .nrdy => 2
  | .ill => 3
  | .ovr => 4
  | .deg0 => 5
  | .deg1 => 6
  | .deg2 => 7

/-- The field `f` of a STATUS value. -/
def getFlag (f : Flag) (st : Byte) : Bool := st.getLsbD (flagBit f)

/-- A STATUS value with the field `f` replaced and every other field kept. -/
def putFlag (f : Flag) (v : Bool) (st : Byte) : Byte :=
  if v then st ||| (1#8 <<< flagBit f) else st &&& ~~~(1#8 <<< flagBit f)

/-- `STATUS.f`. -/
def State.flag (s : State) (f : Flag) : Bool := getFlag f s.status

/-- `STATUS.f <- v`. -/
def State.setFlag (s : State) (f : Flag) (v : Bool) : State := { s with status := putFlag f v s.status }

/-- A STATUS value with `DEG0 <- d0; DEG1 <- d1; DEG2 <- d2` (42_angle.md R184, 44_update_control.md R212). -/
def putDeg (d0 d1 d2 : Bool) (st : Byte) : Byte := putFlag .deg2 d2 (putFlag .deg1 d1 (putFlag .deg0 d0 st))

/-- A STATUS value with `OK <- ok; NRDY <- not ok` (44_update_control.md R212). -/
def putOutcome (ok : Bool) (st : Byte) : Byte := putFlag .nrdy (!ok) (putFlag .ok ok st)

/-- One W1C bit of STATUS: writing 1 clears it, writing 0 leaves it (10_state.md R43). -/
def clearIf (f : Flag) (one : Bool) (st : Byte) : Byte := if one then putFlag f false st else st

/-- `DEG0 <- d0; DEG1 <- d1; DEG2 <- d2`. -/
def State.setDeg (s : State) (d0 d1 d2 : Bool) : State := { s with status := putDeg d0 d1 d2 s.status }

/-- `OK <- ok; NRDY <- not ok`. -/
def State.setOutcome (s : State) (ok : Bool) : State := { s with status := putOutcome ok s.status }

/-- The DEG condition of one operand pair: both are exactly zero (42_angle.md R180, R184). -/
def bothZero (x y : Int) : Bool := x == 0 && y == 0

/-- BUSYO (20_memory.md R80): a copy of STATUS.BUSY. -/
def State.busyo (s : State) : Bool := s.flag .busy

end Sys2Proof.Machine
end

