-- ==== Sys2Proof/Machine/Operands.lean ====
section
/-! DEFINITION. Operand assembly (30_encoding.md R115) and the bit-level primitives of 00_scope.md R16. Every operand comes
from the capture latches (10_state.md R46). -/

namespace Sys2Proof.Machine

/-- `sext_32(v)` (00_scope.md R16). -/
def sext32 (v : Int) : Word := BitVec.ofInt 32 v

/-- `sext_64(v)` (00_scope.md R16). -/
def sext64 (v : Int) : DWord := BitVec.ofInt 64 v

/-- `zext_32(v)` (00_scope.md R16). -/
def zext32 (v : Nat) : Word := BitVec.ofNat 32 v

/-- `zext_64(v)` (00_scope.md R16). -/
def zext64 (v : Nat) : DWord := BitVec.ofNat 64 v

/-- The sign fixup (00_scope.md R16, 40_unpack.md R140): v if v < 2048, else v - 4096. -/
def signfix (v : Composite) : Int :=
  if v.toNat < Config.signThreshold then (v.toNat : Int) else (v.toNat : Int) - Config.signModulus

/-- `cap[A][11:0]`. -/
def State.compositeA (s : State) : Composite := s.cap.a.extractLsb' 0 12

/-- `cap[A][7:0]`. -/
def State.byteA (s : State) : Byte := s.cap.a.extractLsb' 0 8

/-- `cap[B][7:0]`. -/
def State.byteB (s : State) : Byte := s.cap.b.extractLsb' 0 8

/-- The code operand of CONVF and CONVT: `signfix(cap[A][11:0])`. -/
def State.codeA (s : State) : Int := signfix s.compositeA

/-- `sint_32(cap[A])`. -/
def State.intA (s : State) : Int := s.cap.a.toInt

/-- `sint_32(cap[B])`. -/
def State.intB (s : State) : Int := s.cap.b.toInt

/-- `sint_32(cap[C])`. -/
def State.intC (s : State) : Int := s.cap.c.toInt

end Sys2Proof.Machine
end

