-- ==== Sys2Proof/Machine/Ops.lean ====
section
/-! DEFINITION. The shared operations on the state: raising and clearing an error (which is all that TLVCORE has of exception
entry and return, 60_exceptions.md R237, R238), acceptance (R233), completion (10_state.md R47), the result write, and
reset (70_reset_and_hazards.md R260). -/

namespace Sys2Proof.Machine

/-- The error causes of 60_exceptions.md R235. -/
inductive Cause where
  /-- An illegal command word, R231. -/
  | ill
  /-- A dropped command, R232. -/
  | ovr
  deriving DecidableEq, Repr

/-- The STATUS bit that records a cause (R235). -/
def causeFlag (c : Cause) : Flag :=
  match c with
  | .ill => .ill
  | .ovr => .ovr

/-- `raise ILL()` and `raise OVR()` (00_scope.md R18): the sticky bit is set and nothing else changes (R231, R232). -/
def State.raise (s : State) (c : Cause) : State := s.setFlag (causeFlag c) true

/-- `HostWrite(STATUS, v)` (20_memory.md R81): bits 3 and 4 of v clear ILL and OVR; every other bit is ignored. -/
def State.clearErrors (s : State) (v : Word) : State :=
  { s with status := clearIf .ovr (v.getLsbD 4) (clearIf .ill (v.getLsbD 3) s.status) }

/-- 10_state.md R47, 60_exceptions.md R233: the operands captured, `inflight <- w; BUSY <- 1`, the latency counter loaded. -/
def State.launch (s : State) (w : Word) (lat : Nat) : State :=
  { s with
    cap := ⟨s.a, s.b, s.c, s.raw⟩
    inflight := some w
    status := putFlag .busy true s.status
    latency := lat }

/-- 60_exceptions.md R233: accepting the command word `w`, with the latency the implementation gives it (log 2). -/
def State.accept (s : State) (w : Word) : State :=
  { s.launch w (Config.latency w s.acceptCount) with acceptCount := s.acceptCount + 1 }

/-- 10_state.md R47: `inflight <- none; BUSY <- 0`. DESIGN CHOICE (log 11): the latency counter reads 0 while nothing is in
flight. -/
def State.complete (s : State) : State :=
  { s with status := putFlag .busy false s.status, inflight := none, latency := 0 }

/-- `R <- v` (10_state.md R33). -/
def State.writeR (s : State) (v : DWord) : State := { s with r := v }

/-- The commit of a command whose one result is the signed value `v` (10_state.md R33, R47). -/
def State.commitSigned (s : State) (v : Int) : State := (s.writeR (sext64 v)).complete

/-- The commit of a command whose one result is the unsigned value `v` (10_state.md R33, R47). -/
def State.commitUnsigned (s : State) (v : Nat) : State := (s.writeR (zext64 v)).complete

/-- One step of the latency counter (10_state.md R46; log 2). -/
def State.tick (s : State) : State := { s with latency := s.latency - 1 }

/-- 70_reset_and_hazards.md R260, R261: every register and the hidden state at reset, a command in flight abandoned. The
level of RST, HRDATA and the host are outside the block, and acceptCount is the model's own (log 7). -/
def State.resetBlock (s : State) : State :=
  { State.reset with rst := s.rst, hrdata := s.hrdata, host := s.host, acceptCount := s.acceptCount }

end Sys2Proof.Machine
end

