-- ==== Sys2Proof/Machine/Atan.lean ====
section
/-! DEFINITION. The ATAN unit (42_angle.md): ANGLE and ATAN_Q.

The exact angle is a real number (R180). A rational enclosure of it, computed exactly from the arctangent's alternating
series, gives the two faithful codes of R181 part 2; which of the two the implementation gives is the free value
Config.atanRoundsUp (log 3). -/

namespace Sys2Proof.Machine

/-- A fraction with a positive denominator, not reduced. -/
structure Frac where
  num : Int
  den : Nat
  deriving DecidableEq, Repr

/-- The sum of two fractions. -/
def Frac.plus (p q : Frac) : Frac := ⟨p.num * q.den + q.num * p.den, p.den * q.den⟩

/-- The negated fraction. -/
def Frac.opposite (p : Frac) : Frac := ⟨-p.num, p.den⟩

/-- `k * p`. -/
def Frac.times (k : Nat) (p : Frac) : Frac := ⟨k * p.num, p.den⟩

/-- The greatest integer that is not above the fraction. -/
def Frac.floorInt (p : Frac) : Int := p.num / (p.den : Int)

/-- The least integer that is not below the fraction. -/
def Frac.ceilInt (p : Frac) : Int := -((-p.num) / (p.den : Int))

/-- A closed interval with rational ends. -/
structure Enclosure where
  lo : Frac
  hi : Frac
  deriving DecidableEq, Repr

/-- The interval of the sums. -/
def Enclosure.plus (e f : Enclosure) : Enclosure := ⟨e.lo.plus f.lo, e.hi.plus f.hi⟩

/-- The interval of the negated numbers. -/
def Enclosure.opposite (e : Enclosure) : Enclosure := ⟨e.hi.opposite, e.lo.opposite⟩

/-- The interval of the multiples by `k`. -/
def Enclosure.times (k : Nat) (e : Enclosure) : Enclosure := ⟨e.lo.times k, e.hi.times k⟩

/-- `n` terms, from the `k`-th on, of the alternating series of `atan(a/b) / (a/b)` divided by `(-(a/b)^2)^k`. -/
def arctanTail (a b : Nat) (n k : Nat) : Frac :=
  match n with
  | 0 => ⟨0, 1⟩
  | n + 1 =>
    let t := arctanTail a b n (k + 1)
    ⟨(b * b : Nat) * (t.den : Int) - ((2 * k + 1) * (a * a) : Nat) * t.num, (2 * k + 1) * (b * b) * t.den⟩

/-- The sum of the first `n` terms of the series of `atan(a/b)`. -/
def arctanSum (a b n : Nat) : Frac :=
  let t := arctanTail a b n 0
  ⟨a * t.num, b * t.den⟩

/-- How many terms the lower end takes. At a/b <= 3/7 the next term is below 2^-200. -/
def seriesTerms : Nat := 80

/-- `atan(a/b)` for 0 <= a < b: an even number of terms lies below it and one term more lies above. -/
def arctanSeries (a b : Nat) : Enclosure := ⟨arctanSum a b seriesTerms, arctanSum a b (seriesTerms + 1)⟩

/-- pi/4 by Machin's formula: 4 atan(1/5) - atan(1/239). -/
def quarterPi : Enclosure := ((arctanSeries 1 5).times 4).plus (arctanSeries 1 239).opposite

/-- `atan(a/b)` for positive a and b, brought to a ratio of at most 3/7 where the series converges fast. -/
def arctanRatio (a b : Nat) : Enclosure :=
  if 5 * a ≤ 2 * b then arctanSeries a b
  else if a ≤ b then quarterPi.plus (arctanSeries (b - a) (b + a)).opposite
  else if 5 * b ≤ 2 * a then (quarterPi.times 2).plus (arctanSeries b a).opposite
  else quarterPi.plus (arctanSeries (a - b) (a + b))

/-- `theta(x, y)` in the open quadrants (R180): `atan(y/x)`, moved by pi where x < 0 and by 2pi where x > 0 and y < 0. -/
def thetaOpen (x y : Int) : Enclosure :=
  let alpha := arctanRatio y.natAbs x.natAbs
  if 0 < x then
    if 0 < y then alpha else (quarterPi.times 8).plus alpha.opposite
  else
    if 0 < y then (quarterPi.times 4).plus alpha.opposite else (quarterPi.times 4).plus alpha

/-- `t = theta(x, y) * 2^29` in the open quadrants (R181). -/
def scaledTheta (x y : Int) : Enclosure := (thetaOpen x y).times (2 ^ 29)

/-- Q_ZERO (R182). -/
def qZero : Nat := 0

/-- Q_HALFPI (R182). -/
def qHalfPi : Nat := 0x3243F6A9

/-- Q_PI (R182). -/
def qPi : Nat := 0x6487ED51

/-- Q_3HALFPI (R182). -/
def q3HalfPi : Nat := 0x96CBE3FA

/-- QMAX (R182). -/
def qMax : Nat := 0xC90FDAA2

/-- R181 parts 1 and 2: the constant of an axis or degenerate row, else the ceiling or the floor of t as `up` says. Where the
enclosure holds an integer, both give that integer, which is faithful on either side (log 3). -/
def faithfulCode (up : Bool) (x y : Int) : Nat :=
  if y = 0 then (if x < 0 then qPi else qZero)
  else if x = 0 then (if 0 < y then qHalfPi else q3HalfPi)
  else if up then (scaledTheta x y).lo.ceilInt.toNat
  else (scaledTheta x y).hi.floorInt.toNat

/-- ATAN_Q (R181): a function of the operands alone, faithful, with the implementation's choice of rounding. -/
def atanQ (x y : Int) : Nat := faithfulCode (Config.atanRoundsUp x y) x y

/-- The reference rounding of R181 part 4, `nearest(t)`: `floor(t + 1/2)`, since no tie occurs (R183). One conforming ATAN_Q,
used by no meaning. -/
def nearestCode (x y : Int) : Nat :=
  if x = 0 ∨ y = 0 then faithfulCode false x y
  else ((scaledTheta x y).lo.plus ⟨1, 2⟩).floorInt.toNat

/-- ANGLE (R184): `R <- zext_64(ATAN_Q(x, y))`, `DEG0 <- (x = 0 and y = 0)`, `DEG1 <- 0`, `DEG2 <- 0`. A is x and B is y. -/
def execAngle (s : State) : Host.Outcome State Fault Refusal :=
  .next ((s.setDeg (bothZero s.intA s.intB) false false).commitUnsigned (atanQ s.intA s.intB))

end Sys2Proof.Machine
end

