-- ==== Sys2Proof/Machine/Mag2.lean ====
section
/-! DEFINITION. The MAG2 unit (43_magsq.md): MAGSQ. -/

namespace Sys2Proof.Machine

/-- R200: `a*a + b*b + c*c`, exact. The sum of squares is not negative, so it is its own `toNat`. -/
def sumOfSquares (a b c : Int) : Nat := (a * a + b * b + c * c).toNat

/-- MAGSQ (R200). -/
def execMagsq (s : State) : Host.Outcome State Fault Refusal :=
  .next (s.commitUnsigned (sumOfSquares s.intA s.intB s.intC))

end Sys2Proof.Machine
end

