-- ==== Sys2Proof/Machine/Scale.lean ====
section
/-! DEFINITION. The SCALE unit (41_scale.md): CONVF and CONVT. -/

namespace Sys2Proof.Machine

/-- A code in microtesla (R160): `c * FIELD_LSB_UT`. -/
def toField (c : Int) : Int := c * Config.fieldLsbUt

/-- A code in tenths of a degree Celsius (R162): `(c - TEMP_OFFSET) * TEMP_LSB_DC`. -/
def toTemperature (c : Int) : Int := (c - Config.tempOffset) * Config.tempLsbDc

/-- CONVF (R160). -/
def execConvf (s : State) : Host.Outcome State Fault Refusal :=
  .next (s.commitSigned (toField s.codeA))

/-- CONVT (R162). -/
def execConvt (s : State) : Host.Outcome State Fault Refusal :=
  .next (s.commitSigned (toTemperature s.codeA))

end Sys2Proof.Machine
end

