-- ==== Sys2Proof/Machine/Unpack.lean ====
section
/-! DEFINITION. The UNPACK unit (40_unpack.md): SEXT12, DECAX.L, DECAX.H, DECT, and the per-axis table UPDATE uses. -/

namespace Sys2Proof.Machine

/-- The composite of DECAX.L (R142): `(h << 4) | (l & 0x0F)`. -/
def axisLow (h l : Byte) : Composite := (h.setWidth 12 <<< 4) ||| (l &&& 0x0F#8).setWidth 12

/-- The composite of DECAX.H (R143): `(h << 4) | ((l & 0xF0) >> 4)`. -/
def axisHigh (h l : Byte) : Composite := (h.setWidth 12 <<< 4) ||| ((l &&& 0xF0#8) >>> 4).setWidth 12

/-- The composite of DECT (R145): `((s & 0xF0) << 4) | t`. -/
def tempComposite (st t : Byte) : Composite := ((st &&& Config.tempHiMask).setWidth 12 <<< 4) ||| t.setWidth 12

/-- SEXT12 (R140): `R <- sext_64(signfix(cap[A][11:0]))`. -/
def execSext12 (s : State) : Host.Outcome State Fault Refusal :=
  .next (s.commitSigned (signfix s.compositeA))

/-- DECAX.L (R142). -/
def execDecaxL (s : State) : Host.Outcome State Fault Refusal :=
  .next (s.commitSigned (signfix (axisLow s.byteA s.byteB)))

/-- DECAX.H (R143). -/
def execDecaxH (s : State) : Host.Outcome State Fault Refusal :=
  .next (s.commitSigned (signfix (axisHigh s.byteA s.byteB)))

/-- DECT (R145). -/
def execDect (s : State) : Host.Outcome State Fault Refusal :=
  .next (s.commitSigned (signfix (tempComposite s.byteA s.byteB)))

/-- The four raw axis codes of one raw block, as integers (00_scope.md R20). -/
structure AxisCodes where
  x : Int
  y : Int
  z : Int
  t : Int
  deriving DecidableEq, Repr

/-- The per-axis unpack table (R147). -/
def unpackRaw (raw : RawBlock) : AxisCodes where
  x := signfix (axisHigh raw.raw0 raw.raw4)
  y := signfix (axisLow raw.raw1 raw.raw4)
  z := signfix (axisLow raw.raw2 raw.raw5)
  t := signfix (tempComposite raw.raw3 raw.raw6)

end Sys2Proof.Machine
end

