-- ==== Sys2Proof/Machine/Control.lean ====
section
/-! DEFINITION. NOP and UPDATE (44_update_control.md). -/

namespace Sys2Proof.Machine

/-- NOP (R210): the commit writes nothing but `inflight <- none` and `BUSY <- 0`. -/
def execNop (s : State) : Host.Outcome State Fault Refusal := .next s.complete

/-- The validity check (R211): true when the block is NOT ready, `(RAW3 & STATUS_MASK) != 0`. -/
def notReady (raw : RawBlock) : Bool := raw.raw3 &&& Config.statusMask != 0#8

/-- The three field components in microtesla (R212). -/
structure Field where
  x : Int
  y : Int
  z : Int
  deriving DecidableEq, Repr

/-- `bx, by, bz` of R212. -/
def fieldOf (c : AxisCodes) : Field := ⟨toField c.x, toField c.y, toField c.z⟩

/-- `CX <- sext_32(cx)` to `CT <- sext_32(ct)` (R212). -/
def codeBankOf (c : AxisCodes) : CodeBank := ⟨sext32 c.x, sext32 c.y, sext32 c.z, sext32 c.t⟩

/-- The eight fields of the reading (R212), with the angle pairs of R215: (BX, BY), (BY, BZ), (BX, BZ). -/
def readingOf (c : AxisCodes) : ReadingBank :=
  let f := fieldOf c
  { bX := sext32 f.x
    bY := sext32 f.y
    bZ := sext32 f.z
    temp := sext32 (toTemperature c.t)
    phiXY := zext32 (atanQ f.x f.y)
    phiYZ := zext32 (atanQ f.y f.z)
    phiXZ := zext32 (atanQ f.x f.z)
    m2 := zext64 (sumOfSquares f.x f.y f.z) }

/-- The ready branch of R212, without the completion. -/
def State.writeReading (s : State) (c : AxisCodes) : State :=
  let f := fieldOf c
  { s with
    codes := codeBankOf c
    reading := readingOf c
    status := putOutcome true (putDeg (bothZero f.x f.y) (bothZero f.y f.z) (bothZero f.x f.z) s.status) }

/-- UPDATE (R212, R213): all or nothing, from the captured raw block. -/
def execUpdate (s : State) : Host.Outcome State Fault Refusal :=
  if notReady s.cap.raw then .next (s.setOutcome false).complete
  else .next (s.writeReading (unpackRaw s.cap.raw)).complete

end Sys2Proof.Machine
end

