-- ==== Sys2Proof/Machine/Dispatch.lean ====
section
/-! DEFINITION. The meaning of a command: its commit (10_state.md R47, 60_exceptions.md R233), one arm per constructor. -/

namespace Sys2Proof.Machine

def exec (i : Instr) (s : State) : Host.Outcome State Fault Refusal :=
  match i with
  | .nop => Sys2Proof.Machine.execNop s
  | .sext12 => Sys2Proof.Machine.execSext12 s
  | .decaxL => Sys2Proof.Machine.execDecaxL s
  | .decaxH => Sys2Proof.Machine.execDecaxH s
  | .dect => Sys2Proof.Machine.execDect s
  | .convf => Sys2Proof.Machine.execConvf s
  | .convt => Sys2Proof.Machine.execConvt s
  | .angle => Sys2Proof.Machine.execAngle s
  | .magsq => Sys2Proof.Machine.execMagsq s
  | .update => Sys2Proof.Machine.execUpdate s

end Sys2Proof.Machine
end

