-- ==== Sys2Proof/WellFormed.lean ====
section
/-! DEFINITION. What is checked of a term before a claim is made about it. A command has no operand field, so nothing of it
can be ill formed; a host program can be: a branch past its end, a write to a reserved index, directly or through the bridge, a bus access that is no whole
aligned word of the window. -/

namespace Sys2Proof

/-- 30_encoding.md R110, R115: no command carries an operand, so every command is well formed. -/
def Instr.wf (i : Instr) : Bool :=
  match i with
  | .nop | .sext12 | .decaxL | .decaxH | .dect | .convf | .convt | .angle | .magsq | .update => true

namespace Machine

/-- A write to a reserved index "must not be relied on" (20_memory.md R83; 93 I4: refuse such programs). Reads are harmless. -/
def Access.wf (acc : Access) : Bool :=
  match acc with
  | .read _ => true
  | .write idx _ => (regAt idx).isSome

/-- 20_memory.md R84, R87: the byte-bus access is one whole aligned word inside the 64-slot window. -/
def busWf (addr size : Nat) : Bool :=
  size == 4 && (Config.tlvBase ≤ addr && addr < Config.tlvBase + 256 && (addr - Config.tlvBase) % 4 == 0)

/-- A byte-bus write obeys the same ban as a direct one: the slot it reaches is not reserved (20_memory.md R83; 93 I4). -/
def busWriteWf (addr size : Nat) : Bool := busWf addr size && (regAt (busSlot addr)).isSome

/-- A statement of a program of `len` statements. A label names a position (30_encoding.md R117), the end included. -/
def HostStmt.wf (len : Nat) (st : HostStmt) : Bool :=
  match st with
  | .access acc => acc.wf
  | .bnz _ _ target => target ≤ len
  | .b target => target ≤ len
  | .bBusyo target => target ≤ len
  | .busWrite addr size _ => busWriteWf addr size
  | .busRead addr size => busWf addr size
  | .rst _ => true

/-- A host program all of whose statements are well formed. -/
def programWf (p : List HostStmt) : Bool := p.all (HostStmt.wf p.length)

end Machine

end Sys2Proof
end

