-- ==== Sys2Proof/Decode.lean ====
section
/-! DEFINITION. Decoding and encoding a command word (30_encoding.md R110 to R114) and a host access record (R119). -/

namespace Sys2Proof

/-- Why a word is no command (R113, one name for each condition that fails first). -/
inductive DecodeError where
  /-- `w[31:9] != 0`. -/
  | reservedBits
  /-- OP 0x09 to 0xFF. -/
  | opOutOfRange
  /-- NSEL = 1 with an OP other than 0x02. -/
  | nselNotAllowed
  deriving DecidableEq, Repr

/-- OP (R110). -/
def opField (w : Word) : BitVec 8 := w.extractLsb' 0 8

/-- NSEL (R110). -/
def nselField (w : Word) : Bool := w.getLsbD 8

/-- RSV (R110). -/
def rsvField (w : Word) : BitVec 23 := w.extractLsb' 9 23

/-- R112, R113: total on every word. -/
def decode (w : Word) : Except DecodeError Instr :=
  if rsvField w ≠ 0#23 then .error .reservedBits
  else
    match (opField w).toNat, nselField w with
    | 0x00, false => .ok .nop
    | 0x01, false => .ok .sext12
    | 0x02, false => .ok .decaxL
    | 0x02, true => .ok .decaxH
    | 0x03, false => .ok .dect
    | 0x04, false => .ok .convf
    | 0x05, false => .ok .convt
    | 0x06, false => .ok .angle
    | 0x07, false => .ok .magsq
    | 0x08, false => .ok .update
    | op, _ => if 0x08 < op then .error .opOutOfRange else .error .nselNotAllowed

/-- The OP column of R112. -/
def opOf (i : Instr) : BitVec 8 :=
  match i with
  | .nop => 0x00#8
  | .sext12 => 0x01#8
  | .decaxL => 0x02#8
  | .decaxH => 0x02#8
  | .dect => 0x03#8
  | .convf => 0x04#8
  | .convt => 0x05#8
  | .angle => 0x06#8
  | .magsq => 0x07#8
  | .update => 0x08#8

/-- The NSEL column of R112. -/
def nselOf (i : Instr) : BitVec 1 :=
  match i with
  | .decaxH => 1#1
  | .nop | .sext12 | .decaxL | .dect | .convf | .convt | .angle | .magsq | .update => 0#1

/-- The command word of R110: RSV, NSEL, OP. -/
def encode (i : Instr) : Word := 0#23 ++ nselOf i ++ opOf i

/-- The word of an instruction whose `nbits` table bits are `w`; the bits above are 0. A command is one whole word on the
port, so no byte order arises (R111, 20_memory.md R87). -/
def tableWord (nbits w : Nat) : Word := BitVec.ofNat 32 (w % 2 ^ nbits)

/-- What the decoder reads from that word. -/
def decodeTableWord (nbits w : Nat) : Option Instr := (decode (tableWord nbits w)).toOption

namespace Machine

/-- R119: `{HWE[38], HIDX[37:32], HWDATA[31:0]}`, with HWDATA = 0 for a read. -/
def encodeAccess (acc : Access) : AccessRecord :=
  match acc with
  | .read idx => 0#1 ++ idx ++ 0#32
  | .write idx v => 1#1 ++ idx ++ v

/-- The access a record stands for. A read record whose HWDATA is not 0 is no record of R119. -/
def decodeAccess (rec : AccessRecord) : Option Access :=
  if rec.getLsbD 38 then some (.write (rec.extractLsb' 32 6) (rec.extractLsb' 0 32))
  else if rec.extractLsb' 0 32 = 0#32 then some (.read (rec.extractLsb' 32 6))
  else none

end Machine

end Sys2Proof
end

