-- ==== Sys2Proof/Machine/HostPort.lean ====
section
/-! DEFINITION. The host port: HostRead and HostWrite (20_memory.md R81, R82), the command protocol (60_exceptions.md R230 to
R233), and the port while RST = 1 (70_reset_and_hazards.md R260). -/

namespace Sys2Proof.Machine

/-- The word a register reads as (R82). -/
def readReg (r : Reg) (s : State) : Word :=
  match r with
  | .cmd => 0#32
  | .status => s.status.setWidth 32
  | .a => s.a
  | .b => s.b
  | .c => s.c
  | .rLo => s.r.extractLsb' 0 32
  | .rHi => s.r.extractLsb' 32 32
  | .raw0 => s.raw.raw0.setWidth 32
  | .raw1 => s.raw.raw1.setWidth 32
  | .raw2 => s.raw.raw2.setWidth 32
  | .raw3 => s.raw.raw3.setWidth 32
  | .raw4 => s.raw.raw4.setWidth 32
  | .raw5 => s.raw.raw5.setWidth 32
  | .raw6 => s.raw.raw6.setWidth 32
  | .cX => s.codes.cX
  | .cY => s.codes.cY
  | .cZ => s.codes.cZ
  | .cT => s.codes.cT
  | .bX => s.reading.bX
  | .bY => s.reading.bY
  | .bZ => s.reading.bZ
  | .temp => s.reading.temp
  | .phiXY => s.reading.phiXY
  | .phiYZ => s.reading.phiYZ
  | .phiXZ => s.reading.phiXZ
  | .m2Lo => s.reading.m2.extractLsb' 0 32
  | .m2Hi => s.reading.m2.extractLsb' 32 32
  | .id => Config.idValue

/-- `HostRead(idx)` (R82, R83): the word it returns. It changes no state. -/
def hostRead (idx : Index) (s : State) : Word :=
  match regAt idx with
  | some r => readReg r s
  | none => 0#32

/-- `HostWrite(CMD, w)` (60_exceptions.md R230): dropped while busy, else refused as illegal, else accepted. -/
def writeCmd (w : Word) (s : State) : State :=
  if s.flag .busy then s.raise .ovr
  else
    match decode w with
    | .error _ => s.raise .ill
    | .ok _ => s.accept w

/-- The effect of a write of `v` to a register (R81). -/
def writeReg (r : Reg) (v : Word) (s : State) : State :=
  match r with
  | .cmd => writeCmd v s
  | .status => s.clearErrors v
  | .a => { s with a := v }
  | .b => { s with b := v }
  | .c => { s with c := v }
  | .raw0 => { s with raw := { s.raw with raw0 := v.extractLsb' 0 8 } }
  | .raw1 => { s with raw := { s.raw with raw1 := v.extractLsb' 0 8 } }
  | .raw2 => { s with raw := { s.raw with raw2 := v.extractLsb' 0 8 } }
  | .raw3 => { s with raw := { s.raw with raw3 := v.extractLsb' 0 8 } }
  | .raw4 => { s with raw := { s.raw with raw4 := v.extractLsb' 0 8 } }
  | .raw5 => { s with raw := { s.raw with raw5 := v.extractLsb' 0 8 } }
  | .raw6 => { s with raw := { s.raw with raw6 := v.extractLsb' 0 8 } }
  | .rLo | .rHi => s
  | .cX | .cY | .cZ | .cT => s
  | .bX | .bY | .bZ | .temp | .phiXY | .phiYZ | .phiXZ | .m2Lo | .m2Hi => s
  | .id => s

/-- `HostWrite(idx, v)` (R81, R83): a write to a reserved index has no effect. -/
def hostWrite (idx : Index) (v : Word) (s : State) : State :=
  match regAt idx with
  | some r => writeReg r v s
  | none => s

/-- A read at the port: while RST = 1 it returns 0 (70_reset_and_hazards.md R260). -/
def portRead (idx : Index) (s : State) : Word := if s.rst then 0#32 else hostRead idx s

/-- A write at the port: while RST = 1 it has no effect (70_reset_and_hazards.md R260). -/
def portWrite (idx : Index) (v : Word) (s : State) : State := if s.rst then s else hostWrite idx v s

end Sys2Proof.Machine
end

