-- ==== Sys2Proof/Machine/HostStep.lean ====
section
/-! DEFINITION. One step of the host: the statement at its position (30_encoding.md R117), a bridge access (20_memory.md R84,
R87), RST (70_reset_and_hazards.md R260, R261), or no request. -/

namespace Sys2Proof.Machine

/-- The host goes on at `target`. -/
def State.hostAt (s : State) (target : Nat) : State := { s with host := { s.host with position := target } }

/-- HRDATA after the step: the word of a read, none after any other step of the host (log 5). -/
def State.setHrdata (s : State) (d : Option Word) : State := { s with hrdata := d }

/-- The host goes on at its next statement. -/
def State.hostNext (s : State) : State := s.hostAt (s.host.position + 1)

/-- A HostWrite step. -/
def stepWrite (idx : Index) (v : Word) (s : State) : State := ((portWrite idx v s).setHrdata none).hostNext

/-- A HostRead step. -/
def stepRead (idx : Index) (s : State) : State := (s.setHrdata (some (portRead idx s))).hostNext

/-- `bnz NAME, mask, label` (30_encoding.md R117): a HostRead, then a branch of the host when `result & mask != 0`. -/
def stepBnz (idx : Index) (mask : Word) (target : Nat) (s : State) : State :=
  (s.setHrdata (some (portRead idx s))).hostAt
    (if portRead idx s &&& mask ≠ 0#32 then target else s.host.position + 1)

/-- A sample of BUSYO (60_exceptions.md R239, 20_memory.md R80): the host branches on the level, with no access (log 17). -/
def stepBusyo (target : Nat) (s : State) : State :=
  (s.setHrdata none).hostAt (if s.busyo then target else s.host.position + 1)

/-- RST driven to a level (70_reset_and_hazards.md R260, R261): while it is 1 the block's state is the reset state, and it is
still that at the edge at which RST has fallen. -/
def stepRst (level : Bool) (s : State) : State :=
  { ((if level then s.resetBlock else s).setHrdata none).hostNext with rst := level }

/-- The slot a bridge access of `size` bytes at `addr` reaches (20_memory.md R84: byte offset `4 * idx` from TLV_BASE), or the
reason a model refuses it (R87; 93 I6; log 8). -/
def bridgeIndex (addr size : Nat) : Except Refusal Index :=
  if addr < Config.tlvBase ∨ Config.tlvBase + 256 ≤ addr then .error (.outsideWindow addr)
  else if size ≠ 4 ∨ (addr - Config.tlvBase) % 4 ≠ 0 then .error (.partialWordAccess addr size)
  else .ok (busSlot addr)

/-- One host statement. -/
def execStmt (st : HostStmt) (s : State) : Host.Outcome State Fault Refusal :=
  match st with
  | .access (.write idx v) => .next (stepWrite idx v s)
  | .access (.read idx) => .next (stepRead idx s)
  | .bnz idx mask target => .next (stepBnz idx mask target s)
  | .b target => .next ((s.setHrdata none).hostAt target)
  | .bBusyo target => .next (stepBusyo target s)
  | .busWrite addr size v =>
    match bridgeIndex addr size with
    | .ok idx => .next (stepWrite idx v s)
    | .error e => .refused e
  | .busRead addr size =>
    match bridgeIndex addr size with
    | .ok idx => .next (stepRead idx s)
    | .error e => .refused e
  | .rst level => .next (stepRst level s)

/-- The host's step: its next statement, or no request once its program has ended. -/
def hostStep (s : State) : Host.Outcome State Fault Refusal :=
  match s.host.program[s.host.position]? with
  | some st => execStmt st s
  | none => .next (s.setHrdata none)

end Sys2Proof.Machine
end

