-- ==== Sys2Proof/Machine/Schedule.lean ====
section
/-! DEFINITION. Which agent moves: the block's commit or the host (20_memory.md R90, 60_exceptions.md R233, R234, R236). -/

namespace Sys2Proof.Machine

/-- The block's one step of its own (10_state.md R47): the rule of the row of the word in flight. Only legal words are
accepted, so no run meets the fault (log 6). -/
def commitStep (w : Word) (s : State) : Host.Outcome State Fault Refusal :=
  match decode w with
  | .ok i => exec i s
  | .error _ => .fault (.undecodableInFlight w)

/-- While RST = 1 the block is held at reset and only the host moves (70_reset_and_hazards.md R260). Otherwise a command in
flight commits at the last step of its latency, and until then, or with nothing in flight, the host moves (log 2, log 10). -/
def oneStep (s : State) : Host.Outcome State Fault Refusal :=
  if s.rst then hostStep s.resetBlock
  else
    match s.inflight with
    | none => hostStep s
    | some w => if s.latency ≤ 1 then commitStep w s else hostStep s.tick

/-- `s` with the command word `w` just accepted (60_exceptions.md R233) and its commit due in the next step. RST is 0, since
nothing is accepted while it is 1. -/
def placeCommand (w : Word) (s : State) : State := { s.launch w 1 with rst := false }

end Sys2Proof.Machine
end

