-- ==== Sys2Proof/Machine/Step.lean ====
section
/-! DEFINITION. The step of the machine, and the placing of one command before it. -/

namespace Sys2Proof.Machine

/-- One step of the machine. -/
def step (s : State) : Host.Outcome State Fault Refusal := oneStep s

/-- TLVCORE fetches nothing (10_state.md R31): a command comes to run by being accepted. This is `s` with the word accepted
(60_exceptions.md R233: the operands captured, the word in flight, BUSY set) and its commit the very next step (log 1). -/
def State.withFetchWord (s : State) (nbits w : Nat) : State := placeCommand (tableWord nbits w) s

end Sys2Proof.Machine
end

