-- ==== Sys2Proof/Angle.lean ====
section
/-! DEFINITION. The exact angle of 42_angle.md R180, a real number. The machine computes with the rational enclosure of
Machine/Atan.lean; this is what statements compare it with. -/

namespace Sys2Proof

/-- `theta(x, y)`: the nine rows of R180. -/
noncomputable def theta (x y : Int) : ℝ :=
  if y = 0 then
    (if x < 0 then Real.pi else 0)
  else if x = 0 then
    (if 0 < y then Real.pi / 2 else 3 * Real.pi / 2)
  else if 0 < x then
    (if 0 < y then Real.arctan ((y : ℝ) / (x : ℝ)) else 2 * Real.pi + Real.arctan ((y : ℝ) / (x : ℝ)))
  else Real.pi + Real.arctan ((y : ℝ) / (x : ℝ))

/-- `t = theta(x, y) * 2^29` (R181). -/
noncomputable def thetaCode (x y : Int) : ℝ := theta x y * 2 ^ 29

/-- A signed 32-bit value: what ANGLE's operands are (R184). -/
def IsInt32 (v : Int) : Prop := -(2 ^ 31) ≤ v ∧ v < 2 ^ 31

end Sys2Proof
end

