-- ==== Sys2Proof/Machine/Assembler.lean ====
section
/-! DEFINITION. The assembly language of host programs (30_encoding.md R117, R118): statements, pseudo-instructions, labels,
and the reading of a program's text. It yields the program that HostAgent holds. -/

namespace Sys2Proof.Machine

/-- A statement or pseudo-instruction of R117 and R118, labels still by name. -/
inductive AsmStmt where
  | label (name : String)
  | wr (r : Reg) (imm : Word)
  | rd (r : Reg)
  /-- A bare command mnemonic of R112. -/
  | command (i : Instr)
  | bnz (r : Reg) (mask : Word) (target : String)
  | b (target : String)
  | decx
  | decy
  | decz
  | poll
  | clrerr
  | ldraw (b0 b1 b2 b3 b4 b5 b6 : Word)
  deriving DecidableEq, Repr

/-- `wr NAME, imm`: `HostWrite(index(NAME), imm)` (R117). -/
def asmWrite (r : Reg) (imm : Word) : HostStmt := .access (.write (regIndex r) imm)

/-- A bare mnemonic: `wr CMD, word` (R117). -/
def asmCommand (i : Instr) : HostStmt := asmWrite .cmd (encode i)

/-- How many host statements an assembly statement becomes. A label becomes none: it names a position. -/
def asmWidth (st : AsmStmt) : Nat :=
  match st with
  | .label _ => 0
  | .ldraw _ _ _ _ _ _ _ => 7
  | .wr _ _ | .rd _ | .command _ | .bnz _ _ _ | .b _ | .decx | .decy | .decz | .poll | .clrerr => 1

/-- The position each label names, counting from `pos`. -/
def labelTable (pos : Nat) (p : List AsmStmt) : List (String × Nat) :=
  match p with
  | [] => []
  | .label n :: rest => (n, pos) :: labelTable pos rest
  | st :: rest => labelTable (pos + asmWidth st) rest

/-- R117 and the expansion column of R118 for the statement that starts at position `pos`. -/
def expandAt (labels : List (String × Nat)) (pos : Nat) (st : AsmStmt) : Option (List HostStmt) :=
  match st with
  | .label _ => some []
  | .wr r imm => some [asmWrite r imm]
  | .rd r => some [.access (.read (regIndex r))]
  | .command i => some [asmCommand i]
  | .bnz r mask target => (labels.lookup target).map fun t => [.bnz (regIndex r) mask t]
  | .b target => (labels.lookup target).map fun t => [.b t]
  | .decx => some [asmCommand .decaxH]
  | .decy => some [asmCommand .decaxL]
  | .decz => some [asmCommand .decaxL]
  | .poll => some [.bnz (regIndex .status) 0x1#32 pos]
  | .clrerr => some [asmWrite .status 0x18#32]
  | .ldraw b0 b1 b2 b3 b4 b5 b6 =>
    some [asmWrite .raw0 b0, asmWrite .raw1 b1, asmWrite .raw2 b2, asmWrite .raw3 b3, asmWrite .raw4 b4, asmWrite .raw5 b5,
      asmWrite .raw6 b6]

/-- The host statements of `p` from position `pos` on; none where a label is missing. -/
def assembleFrom (labels : List (String × Nat)) (pos : Nat) (p : List AsmStmt) : Option (List HostStmt) :=
  match p with
  | [] => some []
  | st :: rest => do
    let here ← expandAt labels pos st
    let more ← assembleFrom labels (pos + asmWidth st) rest
    some (here ++ more)

/-- The host program of a list of assembly statements. -/
def assemble (p : List AsmStmt) : Option (List HostStmt) := assembleFrom (labelTable 0 p) 0 p

/-- The register names of 10_state.md R45. -/
def regNames : List (String × Reg) :=
  [("CMD", .cmd), ("STATUS", .status), ("A", .a), ("B", .b), ("C", .c), ("R_LO", .rLo), ("R_HI", .rHi),
   ("RAW0", .raw0), ("RAW1", .raw1), ("RAW2", .raw2), ("RAW3", .raw3), ("RAW4", .raw4), ("RAW5", .raw5), ("RAW6", .raw6),
   ("CX", .cX), ("CY", .cY), ("CZ", .cZ), ("CT", .cT), ("BX", .bX), ("BY", .bY), ("BZ", .bZ), ("TEMP", .temp)] ++
  [("PHIXY", .phiXY), ("PHIYZ", .phiYZ), ("PHIXZ", .phiXZ), ("M2_LO", .m2Lo), ("M2_HI", .m2Hi), ("ID", .id)]

/-- The mnemonics and pseudo-instructions that stand alone (R117, R118), in lower case. -/
def bareNames : List (String × AsmStmt) :=
  [("nop", .command .nop), ("sext12", .command .sext12), ("decax.l", .command .decaxL), ("decax.h", .command .decaxH),
   ("dect", .command .dect), ("convf", .command .convf), ("convt", .command .convt), ("angle", .command .angle),
   ("magsq", .command .magsq), ("update", .command .update)] ++
  [("decx", .decx), ("decy", .decy), ("decz", .decz), ("poll", .poll), ("clrerr", .clrerr)]

/-- The words of a line up to its comment (R117: `;` starts one); blanks and commas separate them. `cur` is the word being
read, its letters reversed. -/
def lineWords (cur cs : List Char) : List String :=
  let flush := if cur.isEmpty then [] else [String.ofList cur.reverse]
  match cs with
  | [] => flush
  | c :: rest =>
    if c == ';' then flush
    else if c == ' ' || c == '\t' || c == ',' then flush ++ lineWords [] rest
    else lineWords (c :: cur) rest

/-- The value of a digit in bases up to 16. -/
def digitValue (c : Char) : Option Nat :=
  let n := c.toNat
  if 48 ≤ n ∧ n ≤ 57 then some (n - 48)
  else if 97 ≤ n ∧ n ≤ 102 then some (n - 87)
  else if 65 ≤ n ∧ n ≤ 70 then some (n - 55)
  else none

/-- The digits of a number in a base, read from the left onto `acc`. -/
def digitsValue (base acc : Nat) (cs : List Char) : Option Nat :=
  match cs with
  | [] => some acc
  | c :: rest =>
    match digitValue c with
    | some d => if d < base then digitsValue base (acc * base + d) rest else none
    | none => none

/-- A 32-bit number (R117): decimal, `0x` hex, or a negative decimal standing for its `sext_32` pattern. -/
def numberValue (w : String) : Option Word :=
  match w.toList with
  | [] => none
  | ['-'] => none
  | '0' :: 'x' :: d :: ds => (digitsValue 16 0 (d :: ds)).bind fun n => if n < 2 ^ 32 then some (BitVec.ofNat 32 n) else none
  | '-' :: ds => (digitsValue 10 0 ds).bind fun n => if n ≤ 2 ^ 31 then some (BitVec.ofInt 32 (-(n : Int))) else none
  | ds => (digitsValue 10 0 ds).bind fun n => if n < 2 ^ 32 then some (BitVec.ofNat 32 n) else none

/-- A mnemonic in lower case: mnemonics are case-insensitive (R117). -/
def lowerCase (w : String) : String := String.ofList (w.toList.map Char.toLower)

/-- The statement that a mnemonic and its arguments make. -/
def stmtOfWords (mnemonic : String) (args : List String) : Option AsmStmt :=
  match mnemonic, args with
  | "wr", [name, imm] => do some (.wr (← regNames.lookup name) (← numberValue imm))
  | "rd", [name] => do some (.rd (← regNames.lookup name))
  | "bnz", [name, mask, target] => do some (.bnz (← regNames.lookup name) (← numberValue mask) target)
  | "b", [target] => some (.b target)
  | "ldraw", [b0, b1, b2, b3, b4, b5, b6] => do
    some (.ldraw (← numberValue b0) (← numberValue b1) (← numberValue b2) (← numberValue b3) (← numberValue b4)
      (← numberValue b5) (← numberValue b6))
  | w, [] => bareNames.lookup w
  | _, _ => none

/-- The words of one line: an optional `label:`, then at most one statement (R117). -/
def lineOfWords (ws : List String) : Option (List AsmStmt) :=
  match ws with
  | [] => some []
  | w :: rest =>
    match w.toList.reverse with
    | ':' :: name =>
      let l := AsmStmt.label (String.ofList name.reverse)
      match rest with
      | [] => some [l]
      | m :: args => (stmtOfWords (lowerCase m) args).map fun st => [l, st]
    | _ => (stmtOfWords (lowerCase w) rest).map fun st => [st]

/-- The assembly statements of a text, given line by line; none where a line is no statement of R117. -/
def parseLines (lines : List String) : Option (List AsmStmt) :=
  match lines with
  | [] => some []
  | l :: rest => do
    let here ← lineOfWords (lineWords [] l.toList)
    let more ← parseLines rest
    some (here ++ more)

/-- The host program of a program's text. -/
def assembleText (lines : List String) : Option (List HostStmt) := (parseLines lines).bind assemble

/-- The machine with a host program loaded from outside, at its first statement (log 1). -/
def State.loadProgram (s : State) (p : List HostStmt) : State := { s with host := ⟨p, 0⟩ }

end Sys2Proof.Machine
end

