-- ==== Sys2Proof/Safety.lean ====
section
/-! DEFINITION. What holds of the machine in every run, and what a safe step is, in the terms the statements use. -/

namespace Sys2Proof.Machine

/-- Every code lies in [-2048, 2047] (10_state.md R36). -/
def AxisCodes.InRange (c : AxisCodes) : Prop :=
  (-2048 ≤ c.x ∧ c.x ≤ 2047) ∧ (-2048 ≤ c.y ∧ c.y ≤ 2047) ∧ (-2048 ≤ c.z ∧ c.z ≤ 2047) ∧ (-2048 ≤ c.t ∧ c.t ≤ 2047)

/-- The code bank and the reading bank are still those of reset (70_reset_and_hazards.md R263: the reset zero reading). -/
def State.BanksAtReset (s : State) : Prop := s.codes = CodeBank.reset ∧ s.reading = ReadingBank.reset

/-- The code bank and the reading bank come from ONE ready UPDATE (44_update_control.md R213). -/
def State.BanksOfOneUpdate (s : State) : Prop :=
  ∃ c : AxisCodes, c.InRange ∧ s.codes = codeBankOf c ∧ s.reading = readingOf c

/-- What every step keeps. -/
structure State.Inv (s : State) : Prop where
  /-- 10_state.md R47: "BUSY = 1 exactly when `inflight != none`". -/
  busy_iff : s.flag .busy = s.inflight.isSome
  /-- 60_exceptions.md R230, R233: only a legal word is in flight. -/
  legal : ∀ w, s.inflight = some w → ∃ i, decode w = .ok i
  /-- The latency counter runs exactly while a command is in flight (log 2, log 11). -/
  latency_pos : s.inflight.isSome = true ↔ 0 < s.latency
  /-- 10_state.md R43: "OK and NRDY are never both 1". -/
  ok_or_nrdy : s.flag .ok = true → s.flag .nrdy = false
  /-- 44_update_control.md R213: the banks never mix two UPDATEs. -/
  banks : s.BanksAtReset ∨ s.BanksOfOneUpdate
  /-- OK = 1: the banks hold a committed reading (10_state.md R43). -/
  ok_reading : s.flag .ok = true → s.BanksOfOneUpdate
  /-- OK = 0 and NRDY = 0: no UPDATE has committed (10_state.md R43, 70_reset_and_hazards.md R263). -/
  no_reading : s.flag .ok = false → s.flag .nrdy = false → s.BanksAtReset
  /-- 70_reset_and_hazards.md R260: while RST = 1 the block is at reset. -/
  held : s.rst = true → s.resetBlock = s

/-- The statement asks nothing the spec gives no meaning: a bridge access is one whole aligned word (20_memory.md R87). -/
def HostStmt.Served (st : HostStmt) : Prop :=
  match st with
  | .busWrite addr size _ => busWf addr size = true
  | .busRead addr size => busWf addr size = true
  | .access _ | .bnz _ _ _ | .b _ | .bBusyo _ | .rst _ => True

/-- The host's next statement, if it has one, is served. -/
def State.HostServed (s : State) : Prop := ∀ st, s.host.program[s.host.position]? = some st → st.Served

/-- A step that goes on. -/
def State.Goes (s : State) : Prop := ∃ t, step s = .next t

end Sys2Proof.Machine
end

