-- ==== Sys2Proof/Certificates/Slice0/Obligations.lean ====
section
/-! DEFINITION. The statements for the provers. Results are written in plain arithmetic on the operands' values, and STATUS by
its bit masks (10_state.md R43), not through the model's own helpers; each docstring names the rule it formalises. -/

namespace Sys2Proof.Statements

open Sys2Proof.Machine

/-- `signfix(v)` (00_scope.md R16) on the value of a composite. -/
def signedCode (v : Nat) : Int := if v < 2048 then (v : Int) else (v : Int) - 4096

/-- `s` after a commit that writes R alone: BUSY (bit 0 of STATUS) is cleared and nothing is in flight. `lat` is what the
latency counter then holds, which no rule says. -/
def onlyR (s : State) (r : DWord) (lat : Nat) : State :=
  { s with r := r, status := s.status &&& 0xFE#8, inflight := none, latency := lat }

/-- The next statement of the host's program. -/
def NextStmt (s : State) (st : HostStmt) : Prop := s.host.program[s.host.position]? = some st

/-- RST is 0 and no commit is due: the host moves (log 2). -/
def HostsTurn (s : State) : Prop := s.rst = false ∧ (s.inflight = none ∨ 1 < s.latency)

/-- `word` is legal (30_encoding.md R113), in the rule's own three conditions. -/
def Legal (w : Word) : Prop :=
  w.extractLsb' 9 23 = 0 ∧ (w.extractLsb' 0 8).toNat ≤ 0x08 ∧ (w.getLsbD 8 = false ∨ (w.extractLsb' 0 8).toNat = 0x02)

/-- 42_angle.md R181 part 1 of a rounding function: the axis and degenerate rows, with the constants of R182. -/
def AxisRows (f : Int → Int → Int) : Prop :=
  f 0 0 = 0 ∧
  (∀ x, 0 < x → f x 0 = 0) ∧
  (∀ y, 0 < y → f 0 y = 843314857) ∧
  (∀ x, x < 0 → f x 0 = 1686629713) ∧
  (∀ y, y < 0 → f 0 y = 2529944570)

/-- 42_angle.md R181 part 2: faithful in the open quadrants. -/
def FaithfulOpen (f : Int → Int → Int) : Prop :=
  ∀ x y, x ≠ 0 → y ≠ 0 → f x y = ⌊thetaCode x y⌋ ∨ f x y = ⌈thetaCode x y⌉

/-- 42_angle.md R181 parts 1 and 2 of a rounding function; part 3 is its type. -/
def Conforms (f : Int → Int → Int) : Prop := AxisRows f ∧ FaithfulOpen f

/-- The indices of A, B, C and RAW0 to RAW6 (10_state.md R45). -/
def operandIndices : List Index := [0x02, 0x03, 0x04, 0x08, 0x09, 0x0A, 0x0B, 0x0C, 0x0D, 0x0E]

/-- The commands that write R (10_state.md R33). -/
def writesR : List Instr := [.sext12, .decaxL, .decaxH, .dect, .convf, .convt, .angle, .magsq]

/-- A host statement that neither raises RST nor is refused. -/
def Quiet (st : HostStmt) : Prop := st.Served ∧ st ≠ .rst true

/-- In the step from `u` to `v` the statement `st` reads STATUS, in any of its forms (a read, the bnz of `poll`, a bridge
read), or samples BUSYO, and finds BUSY = 0. -/
def FindsIdle (u v : State) (st : HostStmt) : Prop :=
  ((st = .access (.read 0x01#6) ∨ (∃ mask target, st = .bnz 0x01#6 mask target) ∨ st = .busRead (Config.tlvBase + 4) 4) ∧
    ∃ d : Word, v.hrdata = some d ∧ d.getLsbD 0 = false) ∨
  ((∃ target, st = .bBusyo target) ∧ u.busyo = false)

/-- `y` holds what `t` holds of every result that a commit writes. -/
def SameResults (t y : State) : Prop :=
  y.r = t.r ∧ y.codes = t.codes ∧ y.reading = t.reading ∧
  ∀ f, f ∈ [Flag.ok, Flag.nrdy, Flag.deg0, Flag.deg1, Flag.deg2] → y.flag f = t.flag f

/-- The commit of `i` in state `u`, which is due in it. -/
def CommitsAt (u : State) (i : Instr) : Prop :=
  u.rst = false ∧ u.inflight = some (encode i) ∧ u.latency ≤ 1

end Sys2Proof.Statements

open Sys2Proof Sys2Proof.Machine Sys2Proof.Statements

/-! ## Encoding -/

/-- 30_encoding.md R113: the three conditions of a legal command, and that every word is one row or illegal. -/
def Obligations.DecodeAcceptsExactlyTheLegalWords : Prop :=
  (∀ w : Word, (∃ i, decode w = .ok i) ↔ Legal w) ∧
  (∀ w : Word, (∃ i, decode w = .ok i) ↔
    w ∈ [0x00000000#32, 0x00000001#32, 0x00000002#32, 0x00000102#32, 0x00000003#32, 0x00000004#32, 0x00000005#32,
      0x00000006#32, 0x00000007#32, 0x00000008#32])

/-- 30_encoding.md R112: decoding and encoding agree in both directions, so no bit of a word is dropped. -/
def Obligations.DecodeEncodeAgree : Prop :=
  ∀ (w : Word) (i : Instr), decode w = .ok i ↔ w = encode i

/-- 30_encoding.md R112: the word column of the opcode map, row by row. -/
def Obligations.OpcodeMapWordsDecode : Prop :=
  decode 0x00000000#32 = .ok .nop ∧ decode 0x00000001#32 = .ok .sext12 ∧ decode 0x00000002#32 = .ok .decaxL ∧
  decode 0x00000102#32 = .ok .decaxH ∧ decode 0x00000003#32 = .ok .dect ∧ decode 0x00000004#32 = .ok .convf ∧
  decode 0x00000005#32 = .ok .convt ∧ decode 0x00000006#32 = .ok .angle ∧ decode 0x00000007#32 = .ok .magsq ∧
  decode 0x00000008#32 = .ok .update

/-- 30_encoding.md R119: the 39-bit access record, its fields and both directions of the round trip. -/
def Obligations.AccessRecordRoundTrip : Prop :=
  (∀ acc : Access, decodeAccess (encodeAccess acc) = some acc) ∧
  (∀ (rec : AccessRecord) (acc : Access), decodeAccess rec = some acc → encodeAccess acc = rec) ∧
  (∀ (idx : Index) (v : Word), (encodeAccess (.write idx v)).toNat = 2 ^ 38 + idx.toNat * 2 ^ 32 + v.toNat) ∧
  (∀ idx : Index, (encodeAccess (.read idx)).toNat = idx.toNat * 2 ^ 32)

/-! ## The step -/

/-- A step runs the decoded command: when the word in flight decodes to `i` and its commit is due, the step is exec of `i`
(10_state.md R47, 60_exceptions.md R233). When it is due is the model's choice (log 2). -/
def Obligations.StepRunsTheCommandInFlight : Prop :=
  ∀ (s : State) (w : Word) (i : Instr), s.rst = false → s.inflight = some w → decode w = .ok i → s.latency ≤ 1 →
    step s = exec i s

/-- The placing of a command (log 1) is its acceptance (60_exceptions.md R233): operands captured, the word in flight, BUSY
set, every register kept; and the next step is exec of that command. -/
def Obligations.PlacedCommandIsAcceptedAndRuns : Prop :=
  ∀ (s : State) (i : Instr),
    s.withFetchWord 32 (encode i).toNat =
      { s with cap := ⟨s.a, s.b, s.c, s.raw⟩, inflight := some (encode i), status := s.status ||| 0x01#8, latency := 1,
               rst := false } ∧
    step (s.withFetchWord 32 (encode i).toNat) = exec i (s.withFetchWord 32 (encode i).toNat)

/-- While no commit is due the host moves, the latency counter running down if a command is in flight; while RST is 1 the
block is held at reset and the host moves (20_memory.md R90, 70_reset_and_hazards.md R260). The counter is the model's
choice (log 2). -/
def Obligations.HostMovesWhileNoCommitIsDue : Prop :=
  (∀ s : State, s.rst = false → s.inflight = none → step s = hostStep s) ∧
  (∀ s : State, s.rst = false → s.inflight ≠ none → 1 < s.latency →
    step s = hostStep { s with latency := s.latency - 1 }) ∧
  (∀ s : State, s.rst = true → step s = hostStep s.resetBlock)

/-! ## UNPACK -/

/-- 40_unpack.md R140: SEXT12 completes in every state, with `R <- sext_64(signfix(cap[A][11:0]))` and nothing else written. -/
def Obligations.Sext12Result : Prop :=
  decode 0x00000001#32 = .ok .sext12 ∧ ∀ s : State, ∃ n, exec .sext12 s = .next (onlyR s (BitVec.ofInt 64 (signedCode (s.cap.a.toNat % 4096))) n)

/-- 40_unpack.md R142: DECAX.L, `v = (h << 4) | (l & 0x0F)`. -/
def Obligations.DecaxLowResult : Prop :=
  decode 0x00000002#32 = .ok .decaxL ∧ ∀ s : State, ∃ n, exec .decaxL s =
    .next (onlyR s (BitVec.ofInt 64 (signedCode (s.cap.a.toNat % 256 * 16 + s.cap.b.toNat % 16))) n)

/-- 40_unpack.md R143: DECAX.H, `v = (h << 4) | ((l & 0xF0) >> 4)`. -/
def Obligations.DecaxHighResult : Prop :=
  decode 0x00000102#32 = .ok .decaxH ∧ ∀ s : State, ∃ n, exec .decaxH s =
    .next (onlyR s (BitVec.ofInt 64 (signedCode (s.cap.a.toNat % 256 * 16 + s.cap.b.toNat % 256 / 16))) n)

/-- 40_unpack.md R145: DECT, `v = ((s & 0xF0) << 4) | t`. The status bits are discarded and no flag is written. -/
def Obligations.DectResult : Prop :=
  decode 0x00000003#32 = .ok .dect ∧ ∀ s : State, ∃ n, exec .dect s =
    .next (onlyR s (BitVec.ofInt 64 (signedCode (s.cap.a.toNat % 256 / 16 * 256 + s.cap.b.toNat % 256))) n)

/-- 40_unpack.md R141: `signfix(v) = sint_12(v)`, its two cases and its range. -/
def Obligations.SignFixupIsTwelveBitSigned : Prop :=
  ∀ v : Composite, signfix v = v.toInt ∧
    (v.toNat < 2048 → signfix v = v.toNat) ∧ (2048 ≤ v.toNat → signfix v = (v.toNat : Int) - 4096) ∧
    -2048 ≤ signfix v ∧ signfix v ≤ 2047 ∧ (2048 ≤ v.toNat → signfix v < 0) ∧ (signfix v < 0 ↔ v.getLsbD 11 = true)

/-- 40_unpack.md R144: composite bits [11:4] are h[7:0] and bits [3:0] are the selected nibble. -/
def Obligations.AxisCompositeBitMap : Prop :=
  ∀ h l : Byte,
    (∀ k, k < 8 → (axisLow h l).getLsbD (k + 4) = h.getLsbD k ∧ (axisHigh h l).getLsbD (k + 4) = h.getLsbD k) ∧
    (∀ k, k < 4 → (axisLow h l).getLsbD k = l.getLsbD k ∧ (axisHigh h l).getLsbD k = l.getLsbD (k + 4))

/-- 40_unpack.md R146: composite bits [11:8] are s[7:4] and bits [7:0] are t[7:0]. -/
def Obligations.TemperatureCompositeBitMap : Prop :=
  ∀ st t : Byte,
    (∀ k, k < 4 → (tempComposite st t).getLsbD (k + 8) = st.getLsbD (k + 4)) ∧
    (∀ k, k < 8 → (tempComposite st t).getLsbD k = t.getLsbD k)

/-- 40_unpack.md R147: the per-axis table, RAW4 shared by X (high nibble) and Y (low nibble). -/
def Obligations.PerAxisUnpackTable : Prop :=
  ∀ w : RawBlock, unpackRaw w =
    { x := signedCode (w.raw0.toNat * 16 + w.raw4.toNat / 16)
      y := signedCode (w.raw1.toNat * 16 + w.raw4.toNat % 16)
      z := signedCode (w.raw2.toNat * 16 + w.raw5.toNat % 16)
      t := signedCode (w.raw3.toNat / 16 * 256 + w.raw6.toNat) }

/-! ## SCALE -/

/-- 41_scale.md R160: CONVF, `f = c * 98`, in [-200704, 200606]; R holds f exactly. -/
def Obligations.ConvfResult : Prop :=
  decode 0x00000004#32 = .ok .convf ∧ ∀ s : State, let f := signedCode (s.cap.a.toNat % 4096) * 98
    (∃ n, exec .convf s = .next (onlyR s (BitVec.ofInt 64 f) n)) ∧
    -200704 ≤ f ∧ f ≤ 200606 ∧ (BitVec.ofInt 64 f).toInt = f

/-- 41_scale.md R162, R164: CONVT, `d = (c - 320) * 11` on the signed code, in [-26048, 18997]; R holds d exactly. -/
def Obligations.ConvtResult : Prop :=
  decode 0x00000005#32 = .ok .convt ∧ ∀ s : State, let d := (signedCode (s.cap.a.toNat % 4096) - 320) * 11
    (∃ n, exec .convt s = .next (onlyR s (BitVec.ofInt 64 d) n)) ∧
    -26048 ≤ d ∧ d ≤ 18997 ∧ (BitVec.ofInt 64 d).toInt = d

/-! ## ATAN -/

/-- 42_angle.md R184: ANGLE, A is x and B is y, `R <- zext_64(ATAN_Q(x, y))` with `0 <= q <= QMAX`, DEG0 (bit 5) by the
exact zero test, DEG1 and DEG2 (bits 6, 7) cleared in the same commit. -/
def Obligations.AngleResult : Prop :=
  decode 0x00000006#32 = .ok .angle ∧ ∀ s : State, let x := s.cap.a.toInt; let y := s.cap.b.toInt
    (∃ n, exec .angle s = .next
      { onlyR s (BitVec.ofNat 64 (atanQ x y)) n with
        status := (s.status &&& 0x1E#8) ||| (if x = 0 ∧ y = 0 then 0x20#8 else 0x00#8) }) ∧
    atanQ x y ≤ 0xC90FDAA2

/-- 42_angle.md R180: the nine rows of the exact angle, where the arctangent lies in each, that theta lies in [0, 2pi) in
every row, and that the nine rows cover every (x, y) exactly once. -/
def Obligations.ThetaRowsAndRange : Prop :=
  ∀ x y : Int, let u := Real.arctan ((y : ℝ) / x)
    (x = 0 → y = 0 → theta x y = 0) ∧
    (0 < x → y = 0 → theta x y = 0) ∧
    (0 < x → 0 < y → theta x y = u ∧ 0 < u ∧ u < Real.pi / 2) ∧
    (x = 0 → 0 < y → theta x y = Real.pi / 2) ∧
    (x < 0 → 0 < y → theta x y = Real.pi + u ∧ -(Real.pi / 2) < u ∧ u < 0) ∧
    (x < 0 → y = 0 → theta x y = Real.pi) ∧
    (x < 0 → y < 0 → theta x y = Real.pi + u ∧ 0 < u ∧ u < Real.pi / 2) ∧
    (x = 0 → y < 0 → theta x y = 3 * Real.pi / 2) ∧
    (0 < x → y < 0 → theta x y = 2 * Real.pi + u ∧ -(Real.pi / 2) < u ∧ u < 0) ∧
    0 ≤ theta x y ∧ theta x y < 2 * Real.pi ∧
    [x == 0 && y == 0, 0 < x && y == 0, 0 < x && 0 < y, x == 0 && 0 < y, x < 0 && 0 < y, x < 0 && y == 0, x < 0 && y < 0,
      x == 0 && y < 0, 0 < x && y < 0].count true = 1

/-- 42_angle.md R181: ATAN_Q meets parts 1 to 3, and so does every function that the machine's free choice of rounding
allows; and round-to-nearest is one conforming instance (part 4). -/
def Obligations.AtanQIsFaithful : Prop :=
  Conforms (fun x y => (atanQ x y : Int)) ∧
  (∀ choice : Int → Int → Bool, Conforms (fun x y => (faithfulCode (choice x y) x y : Int))) ∧
  (∀ f : Int → Int → Int, AxisRows f → (∀ x y, x ≠ 0 → y ≠ 0 → f x y = round (thetaCode x y)) → Conforms f)

/-- 42_angle.md R181 part 2, 93_implementation_defined.md I1: the free choice really leaves both codes open. Wherever the
enclosure of t holds no integer, the choice false gives the floor of t and the choice true its ceiling. -/
def Obligations.BothFaithfulCodesAreOpen : Prop :=
  ∀ x y : Int, x ≠ 0 → y ≠ 0 → (scaledTheta x y).lo.floorInt = (scaledTheta x y).hi.floorInt →
    (scaledTheta x y).lo.ceilInt = (scaledTheta x y).hi.ceilInt →
    (faithfulCode false x y : Int) = ⌊thetaCode x y⌋ ∧ (faithfulCode true x y : Int) = ⌈thetaCode x y⌉

/-- 42_angle.md R182: the code constants are the nearest codes of their angles, and QMAX is the largest code below
2pi * 2^29. -/
def Obligations.AngleConstantsAreNearest : Prop :=
  (qZero : Int) = round ((0 : ℝ) * 2 ^ 29) ∧
  (qHalfPi : Int) = round (Real.pi / 2 * 2 ^ 29) ∧
  (qPi : Int) = round (Real.pi * 2 ^ 29) ∧
  (q3HalfPi : Int) = round (3 * Real.pi / 2 * 2 ^ 29) ∧
  (∀ q : Nat, q ≤ qMax ↔ (q : ℝ) < 2 * Real.pi * 2 ^ 29) ∧
  qHalfPi = 843314857 ∧ qPi = 1686629713 ∧ q3HalfPi = 2529944570 ∧ qMax = 3373259426

/-- 42_angle.md R185: every ANGLE result and every PHI value of a reading is at most QMAX, so the angle it stands for lies
in [0, 2pi). -/
def Obligations.EveryAngleIsBelowTwoPi : Prop :=
  (∀ x y : Int, IsInt32 x → IsInt32 y → atanQ x y ≤ qMax) ∧
  (∀ s t : State, exec .angle s = .next t → t.r.toNat ≤ qMax) ∧
  (∀ c : AxisCodes, c.InRange → (readingOf c).phiXY.toNat ≤ qMax ∧ (readingOf c).phiYZ.toNat ≤ qMax ∧
    (readingOf c).phiXZ.toNat ≤ qMax) ∧
  ((qMax : ℝ) / 2 ^ 29 < 2 * Real.pi)

/-- 44_update_control.md R215 with 42_angle.md R187: the three planar angles of a reading are faithful codes of the exact
angles of the CODES (x, y), (y, z) and (x, z), since theta does not change when both operands are scaled by 98. -/
def Obligations.PlanarAnglesAreThoseOfTheCodes : Prop :=
  (∀ (k x y : Int), 0 < k → theta (k * x) (k * y) = theta x y) ∧
  (∀ c : AxisCodes, c.InRange →
    (c.x ≠ 0 → c.y ≠ 0 → ((readingOf c).phiXY.toNat : Int) = ⌊thetaCode c.x c.y⌋ ∨
      ((readingOf c).phiXY.toNat : Int) = ⌈thetaCode c.x c.y⌉) ∧
    (c.y ≠ 0 → c.z ≠ 0 → ((readingOf c).phiYZ.toNat : Int) = ⌊thetaCode c.y c.z⌋ ∨
      ((readingOf c).phiYZ.toNat : Int) = ⌈thetaCode c.y c.z⌉) ∧
    (c.x ≠ 0 → c.z ≠ 0 → ((readingOf c).phiXZ.toNat : Int) = ⌊thetaCode c.x c.z⌋ ∨
      ((readingOf c).phiXZ.toNat : Int) = ⌈thetaCode c.x c.z⌉))

/-! ## MAG2 -/

/-- 43_magsq.md R200, R201: MAGSQ, `m = a*a + b*b + c*c` exactly, at most 3 * 2^62, which R holds without wrapping. -/
def Obligations.MagsqResult : Prop :=
  decode 0x00000007#32 = .ok .magsq ∧ ∀ s : State, let a := s.cap.a.toInt; let b := s.cap.b.toInt; let c := s.cap.c.toInt
    ∃ m : Nat, (m : Int) = a * a + b * b + c * c ∧ m ≤ 3 * 2 ^ 62 ∧ (BitVec.ofNat 64 m).toNat = m ∧
      ∃ n, exec .magsq s = .next (onlyR s (BitVec.ofNat 64 m) n)

/-! ## NOP and UPDATE -/

/-- 44_update_control.md R210: NOP completes in every state and writes nothing but `inflight <- none` and `BUSY <- 0`;
written while BUSY = 1 it is dropped and raises OVR. -/
def Obligations.NopResult : Prop :=
  decode 0x00000000#32 = .ok .nop ∧
  (∀ s : State, ∃ n, exec .nop s = .next { s with status := s.status &&& 0xFE#8, inflight := none, latency := n }) ∧
  (∀ s : State, s.flag .busy = true → hostWrite 0x00#6 0x00000000#32 s = { s with status := s.status ||| 0x10#8 })

/-- 44_update_control.md R212: UPDATE completes in every state. Not ready, it writes OK and NRDY alone; ready, it writes the
code bank, the eight fields of the reading, DEG, OK and NRDY, and never R. -/
def Obligations.UpdateResult : Prop :=
  decode 0x00000008#32 = .ok .update ∧ ∀ s : State, let w := s.cap.raw
    let cx := signedCode (w.raw0.toNat * 16 + w.raw4.toNat / 16)
    let cy := signedCode (w.raw1.toNat * 16 + w.raw4.toNat % 16)
    let cz := signedCode (w.raw2.toNat * 16 + w.raw5.toNat % 16)
    let ct := signedCode (w.raw3.toNat / 16 * 256 + w.raw6.toNat)
    let bx := cx * 98; let bY := cy * 98; let bz := cz * 98
    ∃ (m n : Nat), (m : Int) = bx * bx + bY * bY + bz * bz ∧
    exec .update s = .next
      (if w.raw3.toNat % 4 ≠ 0 then
        { s with status := (s.status &&& 0xF8#8) ||| 0x04#8, inflight := none, latency := n }
      else
        { s with
          codes := ⟨BitVec.ofInt 32 cx, BitVec.ofInt 32 cy, BitVec.ofInt 32 cz, BitVec.ofInt 32 ct⟩
          reading := ⟨BitVec.ofInt 32 bx, BitVec.ofInt 32 bY, BitVec.ofInt 32 bz, BitVec.ofInt 32 ((ct - 320) * 11),
            BitVec.ofNat 32 (atanQ bx bY), BitVec.ofNat 32 (atanQ bY bz), BitVec.ofNat 32 (atanQ bx bz),
            BitVec.ofNat 64 m⟩
          status := (s.status &&& 0x18#8) ||| 0x02#8 ||| (if bx = 0 ∧ bY = 0 then 0x20#8 else 0x00#8) |||
            (if bY = 0 ∧ bz = 0 then 0x40#8 else 0x00#8) ||| (if bx = 0 ∧ bz = 0 then 0x80#8 else 0x00#8)
          inflight := none
          latency := n })

/-- 44_update_control.md R211: the check is bits 1 and 0 of the captured RAW3. Flipping bits [3:2] changes neither the
check nor anything UPDATE writes. -/
def Obligations.OnlyTheTwoLowBitsDecideReadiness : Prop :=
  (∀ s t : State, exec .update s = .next t →
    (t.flag .nrdy = true ↔ (s.cap.raw.raw3.getLsbD 0 = true ∨ s.cap.raw.raw3.getLsbD 1 = true)) ∧
    (t.flag .ok = true ↔ (s.cap.raw.raw3.getLsbD 0 = false ∧ s.cap.raw.raw3.getLsbD 1 = false))) ∧
  (∀ (s s' t t' : State) (m : Byte), m &&& 0xF3#8 = 0 →
    s' = { s with cap := { s.cap with raw := { s.cap.raw with raw3 := s.cap.raw.raw3 ^^^ m } } } →
    exec .update s = .next t → exec .update s' = .next t' →
    t'.codes = t.codes ∧ t'.reading = t.reading ∧ t'.status = t.status ∧ t'.r = t.r)

/-- 44_update_control.md R213, R214: all or nothing, by the captured RAW3[1:0]. Ready (both bits 0), both banks come from the
one captured block; not ready, every register but STATUS reads as before and DEG, ILL and OVR are kept. -/
def Obligations.UpdateIsAllOrNothing : Prop :=
  ∀ s t : State, exec .update s = .next t →
    (s.cap.raw.raw3 &&& 0x03#8 = 0 →
      t.flag .ok = true ∧ t.flag .nrdy = false ∧ t.codes = codeBankOf (unpackRaw s.cap.raw) ∧
      t.reading = readingOf (unpackRaw s.cap.raw) ∧ t.r = s.r ∧
      (t.flag .deg0 = true ↔ t.reading.bX = 0 ∧ t.reading.bY = 0) ∧
      (t.flag .deg1 = true ↔ t.reading.bY = 0 ∧ t.reading.bZ = 0) ∧
      (t.flag .deg2 = true ↔ t.reading.bX = 0 ∧ t.reading.bZ = 0)) ∧
    (s.cap.raw.raw3 &&& 0x03#8 ≠ 0 →
      t.flag .ok = false ∧ t.flag .nrdy = true ∧ (∀ idx, idx ≠ 0x01#6 → hostRead idx t = hostRead idx s) ∧
      t.codes = s.codes ∧ t.reading = s.reading ∧
      ∀ f, f ∈ [Flag.ill, Flag.ovr, Flag.deg0, Flag.deg1, Flag.deg2] → t.flag f = s.flag f)

/-- 44_update_control.md R216: two UPDATEs of the same captured block write the same values (the banks and DEG where the block
is ready, OK and NRDY always), and a second one of the same block changes nothing. -/
def Obligations.UpdateIsDeterministicAndIdempotent : Prop :=
  (∀ s s' t t' : State, s.cap.raw = s'.cap.raw → exec .update s = .next t → exec .update s' = .next t' →
    t.flag .ok = t'.flag .ok ∧ t.flag .nrdy = t'.flag .nrdy ∧
    (s.cap.raw.raw3 &&& 0x03#8 = 0 → t.codes = t'.codes ∧ t.reading = t'.reading ∧
      ∀ f, f ∈ [Flag.deg0, Flag.deg1, Flag.deg2] → t.flag f = t'.flag f)) ∧
  (∀ s t : State, exec .update s = .next t → exec .update t = .next t)

/-! ## What every command does -/

/-- 10_state.md R32, R34, R47: the frame of all ten commands. A commit clears BUSY and inflight; no command writes A, B, C,
RAW, the capture latches, ILL, OVR, the port or the host. -/
def Obligations.CommandFrame : Prop :=
  ∀ (i : Instr) (s t : State), exec i s = .next t →
    t.inflight = none ∧ t.flag .busy = false ∧
    t.a = s.a ∧ t.b = s.b ∧ t.c = s.c ∧ t.raw = s.raw ∧ t.cap = s.cap ∧
    t.flag .ill = s.flag .ill ∧ t.flag .ovr = s.flag .ovr ∧
    t.rst = s.rst ∧ t.hrdata = s.hrdata ∧ t.host = s.host ∧ t.acceptCount = s.acceptCount ∧
    (i ≠ .update → t.codes = s.codes ∧ t.reading = s.reading ∧ t.flag .ok = s.flag .ok ∧ t.flag .nrdy = s.flag .nrdy) ∧
    (i ∉ writesR → t.r = s.r) ∧
    (i ≠ .update → i ≠ .angle → ∀ f, f ∈ [Flag.deg0, Flag.deg1, Flag.deg2] → t.flag f = s.flag f)

/-- Every command completes in every state: "once accepted, no command can fault" (60_exceptions.md). -/
def Obligations.EveryCommandCompletes : Prop :=
  ∀ (i : Instr) (s : State), ∃ t, exec i s = .next t

/-- 70_reset_and_hazards.md R264: a host write to A, B, C or RAW while a command runs does not affect it: the commit and the
write commute. The write takes effect for the next accepted command: its capture holds the written value. -/
def Obligations.OperandWritesDoNotDisturbTheCommand : Prop :=
  (∀ (i : Instr) (s t : State) (idx : Index) (v : Word), idx ∈ operandIndices → exec i s = .next t →
    exec i (hostWrite idx v s) = .next (hostWrite idx v t)) ∧
  (∀ (s : State) (idx : Index) (v w : Word), idx ∈ operandIndices → s.flag .busy = false → Legal w →
    (hostWrite 0x00#6 w (hostWrite idx v s)).cap =
      ⟨(hostWrite idx v s).a, (hostWrite idx v s).b, (hostWrite idx v s).c, (hostWrite idx v s).raw⟩)

/-! ## The host port -/

/-- 20_memory.md R82, R83: the word at every index. -/
def Obligations.HostReadMap : Prop :=
  ∀ s : State,
    hostRead 0x00#6 s = 0 ∧ hostRead 0x01#6 s = s.status.setWidth 32 ∧
    hostRead 0x02#6 s = s.a ∧ hostRead 0x03#6 s = s.b ∧ hostRead 0x04#6 s = s.c ∧
    hostRead 0x05#6 s = s.r.extractLsb' 0 32 ∧ hostRead 0x06#6 s = s.r.extractLsb' 32 32 ∧
    hostRead 0x08#6 s = s.raw.raw0.setWidth 32 ∧ hostRead 0x09#6 s = s.raw.raw1.setWidth 32 ∧
    hostRead 0x0A#6 s = s.raw.raw2.setWidth 32 ∧ hostRead 0x0B#6 s = s.raw.raw3.setWidth 32 ∧
    hostRead 0x0C#6 s = s.raw.raw4.setWidth 32 ∧ hostRead 0x0D#6 s = s.raw.raw5.setWidth 32 ∧
    hostRead 0x0E#6 s = s.raw.raw6.setWidth 32 ∧
    hostRead 0x10#6 s = s.codes.cX ∧ hostRead 0x11#6 s = s.codes.cY ∧ hostRead 0x12#6 s = s.codes.cZ ∧
    hostRead 0x13#6 s = s.codes.cT ∧
    hostRead 0x14#6 s = s.reading.bX ∧ hostRead 0x15#6 s = s.reading.bY ∧ hostRead 0x16#6 s = s.reading.bZ ∧
    hostRead 0x17#6 s = s.reading.temp ∧ hostRead 0x18#6 s = s.reading.phiXY ∧ hostRead 0x19#6 s = s.reading.phiYZ ∧
    hostRead 0x1A#6 s = s.reading.phiXZ ∧
    hostRead 0x1B#6 s = s.reading.m2.extractLsb' 0 32 ∧ hostRead 0x1C#6 s = s.reading.m2.extractLsb' 32 32 ∧
    hostRead 0x3F#6 s = 0x544C5601#32 ∧
    (∀ idx : Index, idx = 0x07#6 ∨ idx = 0x0F#6 ∨ (0x1D ≤ idx.toNat ∧ idx.toNat ≤ 0x3E) → hostRead idx s = 0)

/-- 20_memory.md R81, R83: what a write does at every index but CMD and STATUS, whose writes have statements of their own
(CommandProtocol, StatusIsWriteOneToClear). -/
def Obligations.HostWriteMap : Prop :=
  ∀ (s : State) (v : Word),
    hostWrite 0x02#6 v s = { s with a := v } ∧ hostWrite 0x03#6 v s = { s with b := v } ∧
    hostWrite 0x04#6 v s = { s with c := v } ∧
    (∀ idx : Index, 0x08 ≤ idx.toNat → idx.toNat ≤ 0x0E →
      ∃ raw : RawBlock, hostWrite idx v s = { s with raw := raw } ∧
        hostRead idx (hostWrite idx v s) = BitVec.ofNat 32 (v.toNat % 256) ∧
        ∀ idx' : Index, idx' ≠ idx → hostRead idx' (hostWrite idx v s) = hostRead idx' s) ∧
    (∀ idx : Index, idx = 0x05#6 ∨ idx = 0x06#6 ∨ (0x10 ≤ idx.toNat ∧ idx.toNat ≤ 0x1C) ∨ idx = 0x3F#6 →
      hostWrite idx v s = s) ∧
    (∀ idx : Index, idx = 0x07#6 ∨ idx = 0x0F#6 ∨ (0x1D ≤ idx.toNat ∧ idx.toNat ≤ 0x3E) → hostWrite idx v s = s)

/-- 60_exceptions.md R230 to R233, R236: a write to CMD is dropped while BUSY (OVR set, nothing else, the word not decoded),
else refused as illegal (ILL set, nothing else), else accepted (operands captured, the word in flight, BUSY set). What the
latency counter and acceptCount become is the model's (log 2). -/
def Obligations.CommandProtocol : Prop :=
  ∀ (s : State) (w : Word),
    (s.flag .busy = true → hostWrite 0x00#6 w s = { s with status := s.status ||| 0x10#8 }) ∧
    (s.flag .busy = false → ¬ Legal w → hostWrite 0x00#6 w s = { s with status := s.status ||| 0x08#8 }) ∧
    (s.flag .busy = false → Legal w → ∃ lat count, 1 ≤ lat ∧ hostWrite 0x00#6 w s =
      { s with cap := ⟨s.a, s.b, s.c, s.raw⟩, inflight := some w, status := s.status ||| 0x01#8, latency := lat,
               acceptCount := count })

/-- 20_memory.md R81, 60_exceptions.md R238: a write to STATUS clears ILL where bit 3 is 1 and OVR where bit 4 is 1, and
changes nothing else; an error raised while its flag is 1 leaves it 1. -/
def Obligations.StatusIsWriteOneToClear : Prop :=
  (∀ (s : State) (v : Word), hostWrite 0x01#6 v s =
    { s with status := s.status &&& ~~~(v.setWidth 8 &&& 0x18#8) }) ∧
  (∀ (s : State) (k : Cause), (s.raise k).raise k = s.raise k ∧
    (s.flag (causeFlag k) = true → s.raise k = s)) ∧
  (∀ f : Flag, State.reset.flag f = false)

/-- 20_memory.md R89, 10_state.md R45: a write changes what reads at its own index at most, except that a write to CMD may
change STATUS; A, B and C read back what was written. -/
def Obligations.WritesChangeOnlyTheirRegister : Prop :=
  (∀ (s : State) (v : Word) (idx idx' : Index), idx ≠ 0x00#6 → idx' ≠ idx →
    hostRead idx' (hostWrite idx v s) = hostRead idx' s) ∧
  (∀ (s : State) (w : Word) (idx' : Index), idx' ≠ 0x01#6 → hostRead idx' (hostWrite 0x00#6 w s) = hostRead idx' s) ∧
  (∀ (s : State) (v : Word) (idx : Index), idx ∈ [0x02#6, 0x03#6, 0x04#6] → hostRead idx (hostWrite idx v s) = v)

/-- 20_memory.md R82, R89: a HostRead step changes nothing of the block; the word goes to HRDATA and the host goes on. That
HRDATA is kept as an option, and the latency counter, are the model's (log 5, log 2). -/
def Obligations.ReadStepHasNoSideEffect : Prop :=
  ∀ (s : State) (idx : Index), HostsTurn s → NextStmt s (.access (.read idx)) → ∃ n, step s = .next
    { s with hrdata := some (hostRead idx s), host := ⟨s.host.program, s.host.position + 1⟩, latency := n }

/-- 20_memory.md R81, R90: a HostWrite step is the write at the port, and the host goes on. HRDATA and the latency counter are
the model's (log 5, log 2). -/
def Obligations.WriteStepWrites : Prop :=
  ∀ (s : State) (idx : Index) (v : Word), HostsTurn s → NextStmt s (.access (.write idx v)) →
    ∃ n, step s = .next { hostWrite idx v { s with latency := n } with
      hrdata := none, host := ⟨s.host.program, s.host.position + 1⟩ }

/-- 30_encoding.md R117: `bnz` performs the read and branches when the result and the mask share a bit; `b` branches with no
access (60_exceptions.md R239: a sample of BUSYO, a copy of BUSY, needs no access either; that it is a branch is the model's,
log 17). HRDATA and the latency counter are the model's (log 5, log 2). -/
def Obligations.HostBranches : Prop :=
  (∀ (s : State) (idx : Index) (mask : Word) (target : Nat), HostsTurn s → NextStmt s (.bnz idx mask target) →
    ∃ n, step s = .next { s with
      hrdata := some (hostRead idx s), latency := n
      host := ⟨s.host.program, if hostRead idx s &&& mask ≠ 0 then target else s.host.position + 1⟩ }) ∧
  (∀ (s : State) (target : Nat), HostsTurn s → NextStmt s (.b target) →
    ∃ n, step s = .next { s with hrdata := none, latency := n, host := ⟨s.host.program, target⟩ }) ∧
  (∀ (s : State) (target : Nat), HostsTurn s → NextStmt s (.bBusyo target) →
    ∃ n, step s = .next { s with
      hrdata := none, latency := n
      host := ⟨s.host.program, if s.status.getLsbD 0 then target else s.host.position + 1⟩ })

/-- 20_memory.md R84, R87: a byte-bus access is the access of slot idx when it is one whole word at TLV_BASE + 4 * idx; a
sub-word or misaligned one inside the window is refused. -/
def Obligations.BridgeAccesses : Prop :=
  (∀ (s : State) (idx : Index) (v : Word),
    execStmt (.busWrite (Config.tlvBase + 4 * idx.toNat) 4 v) s = execStmt (.access (.write idx v)) s ∧
    execStmt (.busRead (Config.tlvBase + 4 * idx.toNat) 4) s = execStmt (.access (.read idx)) s) ∧
  (∀ (s : State) (off size : Nat) (v : Word), off < 256 → size ≠ 4 ∨ off % 4 ≠ 0 → HostsTurn s →
    (NextStmt s (.busWrite (Config.tlvBase + off) size v) →
      step s = .refused (.partialWordAccess (Config.tlvBase + off) size)) ∧
    (NextStmt s (.busRead (Config.tlvBase + off) size) →
      step s = .refused (.partialWordAccess (Config.tlvBase + off) size)))

/-- 20_memory.md R91, 60_exceptions.md R239: from a state with the command `i` in flight, a poll (a read of STATUS in any form,
or a sample of BUSYO) that finds BUSY = 0 is ordered after that command's commit, which ran on the operands captured at its
acceptance; and until another command is in flight every later state, so every later read, sees the results of that commit.
The number of steps between is the model's choice (log 2). -/
def Obligations.PollSeesTheCommit : Prop :=
  ∀ (s u v : State) (i : Instr) (n : Nat) (st : HostStmt), s.Inv → s.rst = false → s.inflight = some (encode i) →
    (∀ st' ∈ s.host.program, Quiet st') → core.run n s = .next u → HostsTurn u → NextStmt u st → step u = .next v →
    FindsIdle u v st →
    u.inflight = none ∧ v.inflight = none ∧
    ∃ (m : Nat) (x t : State), m < n ∧ core.run m s = .next x ∧ x.inflight = some (encode i) ∧ x.cap = s.cap ∧
      exec i x = .next t ∧ core.run (m + 1) s = .next t ∧ core.run (n - (m + 1)) t = .next u ∧
      ∀ (j : Nat) (y : State), core.run j t = .next y →
        (∀ (k : Nat) (w : State), k ≤ j → core.run k t = .next w → w.inflight = none) → SameResults t y

/-- 60_exceptions.md R232, R236: a word written to CMD on either side of a commit. Before it, the word is dropped and the
running command's commit differs in OVR alone; after it, a legal word is accepted. -/
def Obligations.CommandWriteEitherSideOfACommit : Prop :=
  ∀ (s t : State) (i : Instr) (w : Word), s.flag .busy = true → exec i s = .next t →
    exec i (hostWrite 0x00#6 w s) = .next { t with status := t.status ||| 0x10#8 } ∧
    (Legal w → (hostWrite 0x00#6 w t).inflight = some w ∧ (hostWrite 0x00#6 w t).flag .busy = true ∧
      (hostWrite 0x00#6 w t).flag .ovr = t.flag .ovr ∧ (hostWrite 0x00#6 w t).r = t.r)

/-! ## What only certain steps do -/

/-- 10_state.md R33: R changes only at the commit of one of the eight commands that write it, or by reset. -/
def Obligations.ResultChangesOnlyAtItsCommits : Prop :=
  ∀ s t : State, step s = .next t → t.rst = false → s.rst = false → t.r ≠ s.r →
    ∃ i, i ∈ writesR ∧ CommitsAt s i ∧ exec i s = .next t

/-- 10_state.md R36, R40: the code bank and the reading bank change only at the commit of a ready UPDATE, together, or by
reset. -/
def Obligations.BanksChangeOnlyAtAReadyUpdate : Prop :=
  ∀ s t : State, step s = .next t → t.rst = false → s.rst = false → t.codes ≠ s.codes ∨ t.reading ≠ s.reading →
    CommitsAt s .update ∧ s.cap.raw.raw3 &&& 0x03#8 = 0 ∧ t.codes = codeBankOf (unpackRaw s.cap.raw) ∧
      t.reading = readingOf (unpackRaw s.cap.raw) ∧ t.flag .ok = true ∧ t.flag .nrdy = false

/-- 10_state.md R32, R34: A, B, C and RAW change only by a write of the host to one of their indices (a whole bridge write
being one), or by reset. -/
def Obligations.OperandsChangeOnlyByHostWrites : Prop :=
  ∀ s t : State, step s = .next t → t.rst = false → s.rst = false →
    t.a ≠ s.a ∨ t.b ≠ s.b ∨ t.c ≠ s.c ∨ t.raw ≠ s.raw →
    HostsTurn s ∧ ∃ (idx : Index) (v : Word), idx ∈ operandIndices ∧
      (NextStmt s (.access (.write idx v)) ∨ NextStmt s (.busWrite (Config.tlvBase + 4 * idx.toNat) 4 v))

/-- 10_state.md R47, 70_reset_and_hazards.md R266: no result register, bank field or STATUS bit 1, 2, 5, 6 or 7 changes in a
step of the host that does not raise RST. -/
def Obligations.ResultsChangeOnlyAtCommit : Prop :=
  ∀ s t : State, HostsTurn s → step s = .next t → t.rst = false →
    t.r = s.r ∧ t.codes = s.codes ∧ t.reading = s.reading ∧
    ∀ f, f ∈ [Flag.ok, Flag.nrdy, Flag.deg0, Flag.deg1, Flag.deg2] → t.flag f = s.flag f

/-- 10_state.md R43: ILL and OVR are sticky. A step that clears one is a reset or a write to STATUS; ILL is set only by an
illegal word written while BUSY = 0, OVR only by a word written while BUSY = 1. -/
def Obligations.ErrorsAreSticky : Prop :=
  (∀ (s t : State) (k : Cause), step s = .next t → s.rst = false → t.rst = false → s.flag (causeFlag k) = true →
    t.flag (causeFlag k) = false → HostsTurn s ∧ ∃ v : Word, v.getLsbD (flagBit (causeFlag k)) = true ∧
      (NextStmt s (.access (.write 0x01#6 v)) ∨ NextStmt s (.busWrite (Config.tlvBase + 4) 4 v))) ∧
  (∀ (s t : State) (k : Cause), step s = .next t → s.flag (causeFlag k) = false → t.flag (causeFlag k) = true →
    HostsTurn s ∧ ∃ w : Word, (NextStmt s (.access (.write 0x00#6 w)) ∨ NextStmt s (.busWrite Config.tlvBase 4 w)) ∧
      (k = .ill → s.flag .busy = false ∧ ¬ Legal w) ∧ (k = .ovr → s.flag .busy = true))

/-! ## Reset -/

/-- 70_reset_and_hazards.md R260, 10_state.md R45: at reset every index reads 0 but ID, STATUS is 0 and nothing is in
flight. -/
def Obligations.ResetState : Prop :=
  (∀ idx : Index, idx ≠ 0x3F#6 → hostRead idx State.reset = 0) ∧ hostRead 0x3F#6 State.reset = 0x544C5601#32 ∧
  State.reset.status = 0 ∧ State.reset.inflight = none

/-- 70_reset_and_hazards.md R261, with RST as a level that a statement of the host raises, the block at reset in that same
step and the host going on (DESIGN CHOICE, log 7): RST raised abandons a command in flight. Every register then reads as at reset, whether or
not one was in flight. -/
def Obligations.ResetAbandonsTheCommand : Prop :=
  ∀ s : State, HostsTurn s → NextStmt s (.rst true) → ∃ t, step s = .next t ∧ t.rst = true ∧ t.inflight = none ∧
    t.status = 0 ∧ t.r = 0 ∧ t.codes = State.reset.codes ∧ t.reading = State.reset.reading ∧
    (∀ idx : Index, hostRead idx t = hostRead idx State.reset) ∧
    t.host = ⟨s.host.program, s.host.position + 1⟩

/-- 70_reset_and_hazards.md R260, with RST as a level that a statement of the host lowers (DESIGN CHOICE, log 7) and the word
read standing in HRDATA as an option (DESIGN CHOICE, log 5): while RST = 1 writes have no effect and reads return 0; when it falls the state is the reset
state. -/
def Obligations.AccessesAreIgnoredDuringReset : Prop :=
  (∀ (s : State) (idx : Index) (v : Word), s.rst = true → NextStmt s (.access (.write idx v)) →
    ∃ t, step s = .next t ∧ t.rst = true ∧ t.inflight = none ∧ ∀ idx', hostRead idx' t = hostRead idx' State.reset) ∧
  (∀ (s : State) (idx : Index), s.rst = true → NextStmt s (.access (.read idx)) →
    ∃ t, step s = .next t ∧ t.hrdata = some 0 ∧ t.rst = true) ∧
  (∀ s : State, s.rst = true → NextStmt s (.rst false) →
    ∃ t, step s = .next t ∧ t.rst = false ∧ t.inflight = none ∧ t.status = 0 ∧
      ∀ idx', hostRead idx' t = hostRead idx' State.reset)

/-! ## The invariant -/

/-- The machine right after reset meets the invariant. -/
def Obligations.ResetMeetsTheInvariant : Prop := State.reset.Inv

/-- Every step keeps the invariant: BUSY exactly while a legal word is in flight (10_state.md R47), OK and NRDY never both
(R43), the banks those of reset or of ONE UPDATE (44_update_control.md R213), the block at reset while RST is 1
(70_reset_and_hazards.md R260). -/
def Obligations.EveryStepKeepsTheInvariant : Prop :=
  ∀ s t : State, s.Inv → step s = .next t → t.Inv

/-- In every state that meets the invariant and whose host asks nothing that the spec gives no meaning, the machine goes on:
TLVCORE never faults and never hangs (60_exceptions.md R234, R237). -/
def Obligations.TheBlockNeverStops : Prop :=
  ∀ s : State, s.Inv → s.HostServed → s.Goes

/-- 60_exceptions.md R234: an accepted command commits after finitely many steps, whatever the host does meanwhile, short of
RST or a refused access; and it commits with the operands captured at its acceptance. How many steps is the latency counter
(log 2). -/
def Obligations.AcceptedCommandCommitsInTime : Prop :=
  ∀ (s : State) (i : Instr), s.Inv → s.rst = false → s.inflight = some (encode i) →
    (∀ st ∈ s.host.program, Quiet st) →
    ∃ u t : State, core.run (s.latency - 1) s = .next u ∧ u.inflight = some (encode i) ∧ u.cap = s.cap ∧ u.r = s.r ∧
      u.codes = s.codes ∧ u.reading = s.reading ∧ exec i u = .next t ∧ core.run s.latency s = .next t ∧
      t.inflight = none ∧ t.flag .busy = false

/-- 10_state.md R36 to R39, R41: the ranges of the code bank and the reading bank, in every state that meets the
invariant. -/
def Obligations.BankRanges : Prop :=
  ∀ s : State, s.Inv →
    (∀ c ∈ [s.codes.cX, s.codes.cY, s.codes.cZ, s.codes.cT], -2048 ≤ c.toInt ∧ c.toInt ≤ 2047 ∧
      ∀ k, 11 ≤ k → k < 32 → c.getLsbD k = c.getLsbD 31) ∧
    (∀ f ∈ [s.reading.bX, s.reading.bY, s.reading.bZ], -200704 ≤ f.toInt ∧ f.toInt ≤ 200606) ∧
    (-26048 ≤ s.reading.temp.toInt ∧ s.reading.temp.toInt ≤ 18997) ∧
    (∀ q ∈ [s.reading.phiXY, s.reading.phiYZ, s.reading.phiXZ], q.toNat ≤ 3373259426) ∧
    s.reading.m2.toNat ≤ 120846286848 ∧ s.reading.m2.toNat < 2 ^ 37

/-- 70_reset_and_hazards.md R263 with 41_scale.md R160, R162, 44_update_control.md R215 and 43_magsq.md R202: while OK = 1 all
eight fields of the reading are those of the code bank (the fields and the temperature its conversions, the angles ATAN_Q of
the field pairs (BX, BY), (BY, BZ), (BX, BZ), M2 their sum of squares); while OK = NRDY = 0 both are the reset zero. -/
def Obligations.ReadingMatchesTheCodes : Prop :=
  ∀ s : State, s.Inv →
    (s.flag .ok = true →
      s.reading.bX.toInt = s.codes.cX.toInt * 98 ∧ s.reading.bY.toInt = s.codes.cY.toInt * 98 ∧
      s.reading.bZ.toInt = s.codes.cZ.toInt * 98 ∧ s.reading.temp.toInt = (s.codes.cT.toInt - 320) * 11 ∧
      s.reading.phiXY.toNat = atanQ s.reading.bX.toInt s.reading.bY.toInt ∧
      s.reading.phiYZ.toNat = atanQ s.reading.bY.toInt s.reading.bZ.toInt ∧
      s.reading.phiXZ.toNat = atanQ s.reading.bX.toInt s.reading.bZ.toInt ∧
      (s.reading.m2.toNat : Int) = s.reading.bX.toInt ^ 2 + s.reading.bY.toInt ^ 2 + s.reading.bZ.toInt ^ 2) ∧
    (s.flag .ok = false → s.flag .nrdy = false → s.codes = ⟨0, 0, 0, 0⟩ ∧ s.reading = ⟨0, 0, 0, 0, 0, 0, 0, 0⟩)

/-! ## The assembly language -/

/-- 30_encoding.md R118: the expansions of the pseudo-instructions, as the host statements they become. A label is the position
of the statement it names (R117), so poll's `1b` is poll's own position, wherever it stands. -/
def Obligations.PseudoInstructionExpansions : Prop :=
  assemble [.decx] = some [.access (.write 0x00#6 0x00000102#32)] ∧
  assemble [.decy] = some [.access (.write 0x00#6 0x00000002#32)] ∧
  assemble [.decz] = some [.access (.write 0x00#6 0x00000002#32)] ∧
  (∀ p h, assemble p = some h → assemble (p ++ [.poll]) = some (h ++ [.bnz 0x01#6 0x1#32 h.length])) ∧
  assemble [.label "1", .bnz .status 0x1#32 "1"] = assemble [.poll] ∧
  assemble [.clrerr] = some [.access (.write 0x01#6 0x18#32)] ∧
  (∀ b0 b1 b2 b3 b4 b5 b6 : Word, assemble [.ldraw b0 b1 b2 b3 b4 b5 b6] = some
    [.access (.write 0x08#6 b0), .access (.write 0x09#6 b1), .access (.write 0x0A#6 b2), .access (.write 0x0B#6 b3),
      .access (.write 0x0C#6 b4), .access (.write 0x0D#6 b5), .access (.write 0x0E#6 b6)]) ∧
  (∀ high low : Word, assemble [.wr .a high, .wr .b low, .decx] = some
    [.access (.write 0x02#6 high), .access (.write 0x03#6 low), .access (.write 0x00#6 0x00000102#32)])
end

