-- ==== Sys2Proof/Laws/Atan.lean ====
section
/-! SUPPORT. The rational enclosure of the ATAN unit encloses the exact angle of 42_angle.md R180, and it is narrow. -/

namespace Sys2Proof.Machine

open Finset

/-! ### Fractions -/

/-- The real number a fraction stands for. -/
noncomputable def Frac.val (p : Frac) : ℝ := (p.num : ℝ) / (p.den : ℝ)

theorem Frac.val_plus {p q : Frac} (hp : 0 < p.den) (hq : 0 < q.den) : (p.plus q).val = p.val + q.val := by
  have h1 : (p.den : ℝ) ≠ 0 := by exact_mod_cast hp.ne'
  have h2 : (q.den : ℝ) ≠ 0 := by exact_mod_cast hq.ne'
  simp only [Frac.val, Frac.plus]
  push_cast
  field_simp

theorem Frac.val_opposite (p : Frac) : p.opposite.val = -p.val := by
  simp [Frac.val, Frac.opposite, neg_div]

theorem Frac.val_times (k : Nat) (p : Frac) : (p.times k).val = k * p.val := by
  simp [Frac.val, Frac.times, mul_div_assoc]

theorem Frac.floorInt_eq {p : Frac} (hp : 0 < p.den) : p.floorInt = ⌊p.val⌋ := by
  have hd : (0 : ℤ) < (p.den : ℤ) := by exact_mod_cast hp
  have hr : (0 : ℝ) < (p.den : ℝ) := by exact_mod_cast hp
  symm
  rw [Int.floor_eq_iff, Frac.val, Frac.floorInt, le_div_iff₀ hr, div_lt_iff₀ hr]
  constructor
  · have := Int.ediv_mul_le p.num hd.ne'
    exact_mod_cast this
  · have := Int.lt_ediv_add_one_mul_self p.num hd
    exact_mod_cast this

theorem Frac.ceilInt_eq {p : Frac} (hp : 0 < p.den) : p.ceilInt = ⌈p.val⌉ := by
  have h : p.ceilInt = -p.opposite.floorInt := rfl
  rw [h, Frac.floorInt_eq (p := p.opposite) hp, Frac.val_opposite, Int.floor_neg, neg_neg]

/-! ### Enclosures -/

/-- `t` lies in the interval, whose ends are proper fractions. -/
structure Enclosure.Holds (e : Enclosure) (t : ℝ) : Prop where
  loDen : 0 < e.lo.den
  hiDen : 0 < e.hi.den
  lower : e.lo.val ≤ t
  upper : t ≤ e.hi.val

/-- The width of the interval. -/
noncomputable def Enclosure.width (e : Enclosure) : ℝ := e.hi.val - e.lo.val

theorem Enclosure.Holds.plus {e f : Enclosure} {t u : ℝ} (he : e.Holds t) (hf : f.Holds u) :
    (e.plus f).Holds (t + u) where
  loDen := Nat.mul_pos he.loDen hf.loDen
  hiDen := Nat.mul_pos he.hiDen hf.hiDen
  lower := by
    rw [Enclosure.plus, Frac.val_plus he.loDen hf.loDen]
    exact add_le_add he.lower hf.lower
  upper := by
    rw [Enclosure.plus, Frac.val_plus he.hiDen hf.hiDen]
    exact add_le_add he.upper hf.upper

theorem Enclosure.Holds.opposite {e : Enclosure} {t : ℝ} (he : e.Holds t) : e.opposite.Holds (-t) where
  loDen := he.hiDen
  hiDen := he.loDen
  lower := by
    rw [Enclosure.opposite, Frac.val_opposite]
    exact neg_le_neg he.upper
  upper := by
    rw [Enclosure.opposite, Frac.val_opposite]
    exact neg_le_neg he.lower

theorem Enclosure.Holds.times {e : Enclosure} {t : ℝ} (k : Nat) (he : e.Holds t) : (e.times k).Holds (k * t) where
  loDen := he.loDen
  hiDen := he.hiDen
  lower := by
    rw [Enclosure.times, Frac.val_times]
    exact mul_le_mul_of_nonneg_left he.lower (Nat.cast_nonneg k)
  upper := by
    rw [Enclosure.times, Frac.val_times]
    exact mul_le_mul_of_nonneg_left he.upper (Nat.cast_nonneg k)

theorem Enclosure.width_plus {e f : Enclosure} {t u : ℝ} (he : e.Holds t) (hf : f.Holds u) :
    (e.plus f).width = e.width + f.width := by
  simp only [Enclosure.width, Enclosure.plus, Frac.val_plus he.loDen hf.loDen, Frac.val_plus he.hiDen hf.hiDen]
  ring

theorem Enclosure.width_opposite (e : Enclosure) : e.opposite.width = e.width := by
  simp only [Enclosure.width, Enclosure.opposite, Frac.val_opposite]
  ring

theorem Enclosure.width_times (k : Nat) (e : Enclosure) : (e.times k).width = k * e.width := by
  simp only [Enclosure.width, Enclosure.times, Frac.val_times]
  ring

/-! ### The series -/

/-- The `j`-th term of the series of `arctan r`, without its sign. -/
noncomputable def arctanTerm (r : ℝ) (j : Nat) : ℝ := r ^ (2 * j + 1) / (2 * j + 1 : ℕ)

theorem arctanTail_den_pos {a b : Nat} (hb : 0 < b) (n k : Nat) : 0 < (arctanTail a b n k).den := by
  induction n generalizing k with
  | zero => exact Nat.one_pos
  | succ n ih => exact Nat.mul_pos (Nat.mul_pos (by omega) (Nat.mul_pos hb hb)) (ih (k + 1))

/-- The Horner form of the tail is the sum it abbreviates. -/
theorem arctanTail_val {a b : Nat} (hb : 0 < b) (n k : Nat) :
    (arctanTail a b n k).val = ∑ j ∈ range n, (-1) ^ j * (((a : ℝ) / b) ^ (2 * j) / (2 * (k + j) + 1 : ℕ)) := by
  have hb' : (b : ℝ) ≠ 0 := by exact_mod_cast hb.ne'
  induction n generalizing k with
  | zero => simp [arctanTail, Frac.val]
  | succ n ih =>
    have hd : ((arctanTail a b n (k + 1)).den : ℝ) ≠ 0 := by exact_mod_cast (arctanTail_den_pos hb n (k + 1)).ne'
    have hk : ((2 * k + 1 : ℕ) : ℝ) ≠ 0 := by positivity
    have hval : (arctanTail a b (n + 1) k).val
        = 1 / (2 * k + 1 : ℕ) - ((a : ℝ) / b) ^ 2 * (arctanTail a b n (k + 1)).val := by
      simp only [arctanTail, Frac.val]
      push_cast at hk ⊢
      field_simp
    have hsum : ∑ j ∈ range n, (-1) ^ (j + 1) * (((a : ℝ) / b) ^ (2 * (j + 1)) / (2 * (k + (j + 1)) + 1 : ℕ))
        = -(((a : ℝ) / b) ^ 2 * ∑ j ∈ range n, (-1) ^ j * (((a : ℝ) / b) ^ (2 * j) / (2 * (k + 1 + j) + 1 : ℕ))) := by
      rw [mul_sum, ← sum_neg_distrib]
      apply sum_congr rfl
      intro j _
      rw [show 2 * (k + 1 + j) + 1 = 2 * (k + (j + 1)) + 1 by ring, show 2 * (j + 1) = 2 * j + 2 by ring, pow_add,
        pow_add (_ / _)]
      ring
    rw [hval, ih, sum_range_succ', hsum]
    simp
    ring

theorem arctanSum_den_pos {a b : Nat} (hb : 0 < b) (n : Nat) : 0 < (arctanSum a b n).den :=
  Nat.mul_pos hb (arctanTail_den_pos hb n 0)

theorem arctanSum_val {a b : Nat} (hb : 0 < b) (n : Nat) :
    (arctanSum a b n).val = ∑ j ∈ range n, (-1) ^ j * arctanTerm ((a : ℝ) / b) j := by
  have hb' : (b : ℝ) ≠ 0 := by exact_mod_cast hb.ne'
  have hd : ((arctanTail a b n 0).den : ℝ) ≠ 0 := by exact_mod_cast (arctanTail_den_pos hb n 0).ne'
  have h : (arctanSum a b n).val = (a : ℝ) / b * (arctanTail a b n 0).val := by
    simp only [arctanSum, Frac.val]
    push_cast
    field_simp
  rw [h, arctanTail_val hb, mul_sum]
  apply sum_congr rfl
  intro j _
  rw [arctanTerm, pow_succ]
  simp only [zero_add]
  ring

theorem arctanTerm_antitone {r : ℝ} (h0 : 0 ≤ r) (h1 : r < 1) : Antitone (arctanTerm r) := by
  apply antitone_nat_of_succ_le
  intro j
  unfold arctanTerm
  apply div_le_div₀ (pow_nonneg h0 _) (pow_le_pow_of_le_one h0 h1.le (by omega)) (by positivity)
  exact_mod_cast (by omega : 2 * j + 1 ≤ 2 * (j + 1) + 1)

theorem arctanTerm_tendsto {r : ℝ} (h0 : 0 ≤ r) (h1 : r < 1) :
    Filter.Tendsto (fun n => ∑ j ∈ range n, (-1) ^ j * arctanTerm r j) Filter.atTop (nhds (Real.arctan r)) := by
  have h := (Real.hasSum_arctan (x := r) (by rwa [Real.norm_of_nonneg h0])).tendsto_sum_nat
  refine h.congr fun n => sum_congr rfl fun j _ => ?_
  rw [arctanTerm, mul_div_assoc]

theorem arctanSeries_holds {a b : Nat} (h : a < b) : (arctanSeries a b).Holds (Real.arctan ((a : ℝ) / b)) := by
  have hb : 0 < b := by omega
  have hbr : (0 : ℝ) < b := by exact_mod_cast hb
  have h0 : (0 : ℝ) ≤ (a : ℝ) / b := by positivity
  have h1 : (a : ℝ) / b < 1 := by rw [div_lt_one hbr]; exact_mod_cast h
  exact
    { loDen := arctanSum_den_pos hb _
      hiDen := arctanSum_den_pos hb _
      lower := by
        rw [arctanSeries, arctanSum_val hb]
        exact (arctanTerm_antitone h0 h1).alternating_series_le_tendsto (arctanTerm_tendsto h0 h1) 40
      upper := by
        rw [arctanSeries, arctanSum_val hb]
        exact (arctanTerm_antitone h0 h1).tendsto_le_alternating_series (arctanTerm_tendsto h0 h1) 40 }

/-- At a ratio of at most 3/7 the two ends differ by the 80th term, which is tiny. -/
theorem arctanSeries_width {a b : Nat} (hb : 0 < b) (h : 7 * a ≤ 3 * b) : (arctanSeries a b).width ≤ 1 / 2 ^ 100 := by
  have hbr : (0 : ℝ) < b := by exact_mod_cast hb
  have h0 : (0 : ℝ) ≤ (a : ℝ) / b := by positivity
  have h1 : (a : ℝ) / b ≤ 3 / 7 := by
    rw [div_le_div_iff₀ hbr (by norm_num)]
    exact_mod_cast (by omega : a * 7 ≤ 3 * b)
  have hw : (arctanSeries a b).width = arctanTerm ((a : ℝ) / b) 80 := by
    simp only [Enclosure.width, arctanSeries, arctanSum_val hb, seriesTerms, sum_range_succ _ 80]
    norm_num
  rw [hw, arctanTerm]
  calc ((a : ℝ) / b) ^ (2 * 80 + 1) / (2 * 80 + 1 : ℕ) ≤ (3 / 7 : ℝ) ^ (2 * 80 + 1) / (2 * 80 + 1 : ℕ) := by gcongr
    _ ≤ 1 / 2 ^ 100 := by norm_num

/-! ### pi/4, a ratio, the angle -/

theorem quarterPi_holds : quarterPi.Holds (Real.pi / 4) := by
  have h := ((arctanSeries_holds (a := 1) (b := 5) (by norm_num)).times 4).plus
    (arctanSeries_holds (a := 1) (b := 239) (by norm_num)).opposite
  have e : (4 : ℕ) * Real.arctan ((1 : ℕ) / (5 : ℕ)) + -Real.arctan ((1 : ℕ) / (239 : ℕ)) = Real.pi / 4 := by
    rw [← Real.four_mul_arctan_inv_5_sub_arctan_inv_239]
    push_cast
    simp only [one_div]
    ring
  rwa [e] at h

theorem quarterPi_width : quarterPi.width ≤ 5 / 2 ^ 100 := by
  have h1 := arctanSeries_width (a := 1) (b := 5) (by norm_num) (by norm_num)
  have h2 := arctanSeries_width (a := 1) (b := 239) (by norm_num) (by norm_num)
  rw [quarterPi, Enclosure.width_plus ((arctanSeries_holds (by norm_num)).times 4)
    (arctanSeries_holds (by norm_num)).opposite, Enclosure.width_times, Enclosure.width_opposite]
  push_cast
  linarith

/-- The complement of a ratio with respect to pi/4. -/
theorem arctan_complement {r : ℝ} (h : 0 < r) : Real.arctan ((1 - r) / (1 + r)) = Real.pi / 4 - Real.arctan r := by
  have h1 : (0 : ℝ) < 1 + r := by linarith
  have hlt : r * ((1 - r) / (1 + r)) < 1 := by
    rw [← mul_div_assoc, div_lt_one h1]
    nlinarith
  have := Real.arctan_add hlt
  have e : (r + (1 - r) / (1 + r)) / (1 - r * ((1 - r) / (1 + r))) = 1 := by
    have hd : 1 - r * ((1 - r) / (1 + r)) ≠ 0 := by linarith
    rw [div_eq_one_iff_eq hd]
    field_simp
    ring
  rw [e, Real.arctan_one] at this
  linarith

/-- The complement of the ratio a/b <= 1. -/
theorem arctan_complement_nat {a b : Nat} (ha : 0 < a) (h : a ≤ b) :
    Real.arctan (((b - a : ℕ) : ℝ) / ((b + a : ℕ) : ℝ)) = Real.pi / 4 - Real.arctan ((a : ℝ) / b) := by
  have hb : (0 : ℝ) < b := by exact_mod_cast (by omega : 0 < b)
  have har : (0 : ℝ) < a := by exact_mod_cast ha
  rw [← arctan_complement (by positivity), Nat.cast_sub h]
  congr 1
  push_cast
  field_simp

/-- The complement of a ratio with respect to pi/2. -/
theorem arctan_swap {a b : Nat} (ha : 0 < a) (hb : 0 < b) :
    Real.arctan ((a : ℝ) / b) = Real.pi / 2 - Real.arctan ((b : ℝ) / a) := by
  have h : (0 : ℝ) < (b : ℝ) / a := by
    have : (0 : ℝ) < a := by exact_mod_cast ha
    have : (0 : ℝ) < b := by exact_mod_cast hb
    positivity
  rw [← Real.arctan_inv_of_pos h, inv_div]

theorem arctanRatio_spec {a b : Nat} (ha : 0 < a) (hb : 0 < b) :
    (arctanRatio a b).Holds (Real.arctan ((a : ℝ) / b)) ∧ (arctanRatio a b).width ≤ 11 / 2 ^ 100 := by
  have hq := quarterPi_holds
  have wq := quarterPi_width
  unfold arctanRatio
  split_ifs with h1 h2 h3
  · refine ⟨arctanSeries_holds (by omega), ?_⟩
    have := arctanSeries_width (a := a) (b := b) hb (by omega)
    linarith
  · have hs := arctanSeries_holds (a := b - a) (b := b + a) (by omega)
    have ws := arctanSeries_width (a := b - a) (b := b + a) (by omega) (by omega)
    constructor
    · have := hq.plus hs.opposite
      rw [arctan_complement_nat ha h2] at this
      convert this using 1
      ring
    · rw [Enclosure.width_plus hq hs.opposite, Enclosure.width_opposite]
      linarith
  · have hs := arctanSeries_holds (a := b) (b := a) (by omega)
    have ws := arctanSeries_width (a := b) (b := a) ha (by omega)
    constructor
    · have := (hq.times 2).plus hs.opposite
      rw [arctan_swap ha hb]
      convert this using 1
      push_cast
      ring
    · rw [Enclosure.width_plus (hq.times 2) hs.opposite, Enclosure.width_opposite, Enclosure.width_times]
      push_cast
      linarith
  · have hs := arctanSeries_holds (a := a - b) (b := a + b) (by omega)
    have ws := arctanSeries_width (a := a - b) (b := a + b) (by omega) (by omega)
    constructor
    · have := hq.plus hs
      rw [arctan_complement_nat hb (by omega)] at this
      rw [arctan_swap ha hb]
      convert this using 1
      ring
    · rw [Enclosure.width_plus hq hs]
      linarith

/-- The ratio of the absolute values, where x and y have the same sign. -/
theorem ratio_same {x y : Int} (h : (0 < x ∧ 0 < y) ∨ (x < 0 ∧ y < 0)) :
    ((y.natAbs : ℝ) / (x.natAbs : ℝ)) = (y : ℝ) / (x : ℝ) := by
  rw [Nat.cast_natAbs, Nat.cast_natAbs]
  obtain ⟨hx, hy⟩ | ⟨hx, hy⟩ := h
  · rw [abs_of_pos hx, abs_of_pos hy]
  · rw [abs_of_neg hx, abs_of_neg hy]
    push_cast
    rw [neg_div_neg_eq]

/-- The ratio of the absolute values, where x and y have opposite signs. -/
theorem ratio_opposite {x y : Int} (h : (0 < x ∧ y < 0) ∨ (x < 0 ∧ 0 < y)) :
    ((y.natAbs : ℝ) / (x.natAbs : ℝ)) = -((y : ℝ) / (x : ℝ)) := by
  rw [Nat.cast_natAbs, Nat.cast_natAbs]
  obtain ⟨hx, hy⟩ | ⟨hx, hy⟩ := h
  · rw [abs_of_pos hx, abs_of_neg hy]
    push_cast
    rw [neg_div]
  · rw [abs_of_neg hx, abs_of_pos hy]
    push_cast
    rw [div_neg]

/-- In the open quadrants the enclosure holds theta, and its width is far below one code. -/
theorem thetaOpen_spec {x y : Int} (hx : x ≠ 0) (hy : y ≠ 0) :
    (thetaOpen x y).Holds (theta x y) ∧ (thetaOpen x y).width ≤ 51 / 2 ^ 100 := by
  have hq := quarterPi_holds
  have wq := quarterPi_width
  obtain ⟨ha, wa⟩ := arctanRatio_spec (a := y.natAbs) (b := x.natAbs) (by omega) (by omega)
  simp only [thetaOpen, theta, hx, hy, if_false]
  rcases lt_or_gt_of_ne hx with hx' | hx' <;> rcases lt_or_gt_of_ne hy with hy' | hy'
  · rw [ratio_same (.inr ⟨hx', hy'⟩)] at ha
    rw [if_neg (not_lt.mpr hx'.le), if_neg (not_lt.mpr hy'.le), if_neg (not_lt.mpr hx'.le)]
    constructor
    · convert (hq.times 4).plus ha using 1
      push_cast
      ring
    · rw [Enclosure.width_plus (hq.times 4) ha, Enclosure.width_times]
      push_cast
      linarith
  · rw [ratio_opposite (.inr ⟨hx', hy'⟩), Real.arctan_neg] at ha
    rw [if_neg (not_lt.mpr hx'.le), if_pos hy', if_neg (not_lt.mpr hx'.le)]
    constructor
    · convert (hq.times 4).plus ha.opposite using 1
      push_cast
      ring
    · rw [Enclosure.width_plus (hq.times 4) ha.opposite, Enclosure.width_opposite, Enclosure.width_times]
      push_cast
      linarith
  · rw [ratio_opposite (.inl ⟨hx', hy'⟩), Real.arctan_neg] at ha
    rw [if_pos hx', if_neg (not_lt.mpr hy'.le), if_pos hx', if_neg (not_lt.mpr hy'.le)]
    constructor
    · convert (hq.times 8).plus ha.opposite using 1
      push_cast
      ring
    · rw [Enclosure.width_plus (hq.times 8) ha.opposite, Enclosure.width_opposite, Enclosure.width_times]
      push_cast
      linarith
  · rw [ratio_same (.inl ⟨hx', hy'⟩)] at ha
    rw [if_pos hx', if_pos hy', if_pos hx', if_pos hy']
    exact ⟨ha, by linarith⟩

/-- The enclosure of `t = theta * 2^29`, and its width (42_angle.md R181). -/
theorem scaledTheta_spec {x y : Int} (hx : x ≠ 0) (hy : y ≠ 0) :
    (scaledTheta x y).Holds (thetaCode x y) ∧ (scaledTheta x y).width < 1 / 2 ^ 60 := by
  obtain ⟨h, w⟩ := thetaOpen_spec hx hy
  constructor
  · have := h.times (2 ^ 29)
    rw [thetaCode, mul_comm]
    exact_mod_cast this
  · rw [scaledTheta, Enclosure.width_times]
    push_cast
    linarith

end Sys2Proof.Machine
end

