-- ==== Sys2Proof/Laws/Decode.lean ====
section
/-! SUPPORT. The command word as its fields. -/

namespace Sys2Proof

/-- A word is its three fields (30_encoding.md R110). -/
theorem word_fields (w : Word) :
    w.toNat = (rsvField w).toNat * 512 + (nselField w).toNat * 256 + (opField w).toNat := by
  have hb : (nselField w).toNat = w.toNat / 256 % 2 := by
    simp only [nselField, BitVec.getLsbD, Nat.testBit, Nat.shiftRight_eq_div_pow]
    rcases Nat.mod_two_eq_zero_or_one (w.toNat / 256) with h | h <;> simp [h, Nat.and_comm 1, Nat.and_one_is_mod]
  have hr : (rsvField w).toNat = w.toNat / 512 := by
    have := w.isLt
    simp only [rsvField, BitVec.extractLsb'_toNat, Nat.shiftRight_eq_div_pow]
    omega
  have ho : (opField w).toNat = w.toNat % 256 := by
    simp [opField, BitVec.extractLsb'_toNat]
  rw [hb, hr, ho]
  omega

end Sys2Proof
end

