-- ==== Sys2Proof/Laws/State.lean ====
section
/-! SUPPORT. What each named operation does to each field of State, one lemma per field per operation, so that no later proof
unfolds a record update; and the same for the fields of STATUS. -/

namespace Sys2Proof.Machine

variable (s : State)

section setFlag

@[simp] theorem State.setFlag_a (f : Flag) (v : Bool) : (s.setFlag f v).a = s.a := rfl
@[simp] theorem State.setFlag_b (f : Flag) (v : Bool) : (s.setFlag f v).b = s.b := rfl
@[simp] theorem State.setFlag_c (f : Flag) (v : Bool) : (s.setFlag f v).c = s.c := rfl
@[simp] theorem State.setFlag_r (f : Flag) (v : Bool) : (s.setFlag f v).r = s.r := rfl
@[simp] theorem State.setFlag_raw (f : Flag) (v : Bool) : (s.setFlag f v).raw = s.raw := rfl
@[simp] theorem State.setFlag_codes (f : Flag) (v : Bool) : (s.setFlag f v).codes = s.codes := rfl
@[simp] theorem State.setFlag_reading (f : Flag) (v : Bool) : (s.setFlag f v).reading = s.reading := rfl
@[simp] theorem State.setFlag_status (f : Flag) (v : Bool) : (s.setFlag f v).status = putFlag f v s.status := rfl
@[simp] theorem State.setFlag_cap (f : Flag) (v : Bool) : (s.setFlag f v).cap = s.cap := rfl
@[simp] theorem State.setFlag_inflight (f : Flag) (v : Bool) : (s.setFlag f v).inflight = s.inflight := rfl
@[simp] theorem State.setFlag_latency (f : Flag) (v : Bool) : (s.setFlag f v).latency = s.latency := rfl
@[simp] theorem State.setFlag_rst (f : Flag) (v : Bool) : (s.setFlag f v).rst = s.rst := rfl
@[simp] theorem State.setFlag_hrdata (f : Flag) (v : Bool) : (s.setFlag f v).hrdata = s.hrdata := rfl
@[simp] theorem State.setFlag_host (f : Flag) (v : Bool) : (s.setFlag f v).host = s.host := rfl
@[simp] theorem State.setFlag_acceptCount (f : Flag) (v : Bool) : (s.setFlag f v).acceptCount = s.acceptCount := rfl

end setFlag

section setDeg

@[simp] theorem State.setDeg_a (d0 d1 d2 : Bool) : (s.setDeg d0 d1 d2).a = s.a := rfl
@[simp] theorem State.setDeg_b (d0 d1 d2 : Bool) : (s.setDeg d0 d1 d2).b = s.b := rfl
@[simp] theorem State.setDeg_c (d0 d1 d2 : Bool) : (s.setDeg d0 d1 d2).c = s.c := rfl
@[simp] theorem State.setDeg_r (d0 d1 d2 : Bool) : (s.setDeg d0 d1 d2).r = s.r := rfl
@[simp] theorem State.setDeg_raw (d0 d1 d2 : Bool) : (s.setDeg d0 d1 d2).raw = s.raw := rfl
@[simp] theorem State.setDeg_codes (d0 d1 d2 : Bool) : (s.setDeg d0 d1 d2).codes = s.codes := rfl
@[simp] theorem State.setDeg_reading (d0 d1 d2 : Bool) : (s.setDeg d0 d1 d2).reading = s.reading := rfl
@[simp] theorem State.setDeg_status (d0 d1 d2 : Bool) : (s.setDeg d0 d1 d2).status = putDeg d0 d1 d2 s.status := rfl
@[simp] theorem State.setDeg_cap (d0 d1 d2 : Bool) : (s.setDeg d0 d1 d2).cap = s.cap := rfl
@[simp] theorem State.setDeg_inflight (d0 d1 d2 : Bool) : (s.setDeg d0 d1 d2).inflight = s.inflight := rfl
@[simp] theorem State.setDeg_latency (d0 d1 d2 : Bool) : (s.setDeg d0 d1 d2).latency = s.latency := rfl
@[simp] theorem State.setDeg_rst (d0 d1 d2 : Bool) : (s.setDeg d0 d1 d2).rst = s.rst := rfl
@[simp] theorem State.setDeg_hrdata (d0 d1 d2 : Bool) : (s.setDeg d0 d1 d2).hrdata = s.hrdata := rfl
@[simp] theorem State.setDeg_host (d0 d1 d2 : Bool) : (s.setDeg d0 d1 d2).host = s.host := rfl
@[simp] theorem State.setDeg_acceptCount (d0 d1 d2 : Bool) : (s.setDeg d0 d1 d2).acceptCount = s.acceptCount := rfl

end setDeg

section setOutcome

@[simp] theorem State.setOutcome_a (v : Bool) : (s.setOutcome v).a = s.a := rfl
@[simp] theorem State.setOutcome_b (v : Bool) : (s.setOutcome v).b = s.b := rfl
@[simp] theorem State.setOutcome_c (v : Bool) : (s.setOutcome v).c = s.c := rfl
@[simp] theorem State.setOutcome_r (v : Bool) : (s.setOutcome v).r = s.r := rfl
@[simp] theorem State.setOutcome_raw (v : Bool) : (s.setOutcome v).raw = s.raw := rfl
@[simp] theorem State.setOutcome_codes (v : Bool) : (s.setOutcome v).codes = s.codes := rfl
@[simp] theorem State.setOutcome_reading (v : Bool) : (s.setOutcome v).reading = s.reading := rfl
@[simp] theorem State.setOutcome_status (v : Bool) : (s.setOutcome v).status = putOutcome v s.status := rfl
@[simp] theorem State.setOutcome_cap (v : Bool) : (s.setOutcome v).cap = s.cap := rfl
@[simp] theorem State.setOutcome_inflight (v : Bool) : (s.setOutcome v).inflight = s.inflight := rfl
@[simp] theorem State.setOutcome_latency (v : Bool) : (s.setOutcome v).latency = s.latency := rfl
@[simp] theorem State.setOutcome_rst (v : Bool) : (s.setOutcome v).rst = s.rst := rfl
@[simp] theorem State.setOutcome_hrdata (v : Bool) : (s.setOutcome v).hrdata = s.hrdata := rfl
@[simp] theorem State.setOutcome_host (v : Bool) : (s.setOutcome v).host = s.host := rfl
@[simp] theorem State.setOutcome_acceptCount (v : Bool) : (s.setOutcome v).acceptCount = s.acceptCount := rfl

end setOutcome

section raise

@[simp] theorem State.raise_a (k : Cause) : (s.raise k).a = s.a := rfl
@[simp] theorem State.raise_b (k : Cause) : (s.raise k).b = s.b := rfl
@[simp] theorem State.raise_c (k : Cause) : (s.raise k).c = s.c := rfl
@[simp] theorem State.raise_r (k : Cause) : (s.raise k).r = s.r := rfl
@[simp] theorem State.raise_raw (k : Cause) : (s.raise k).raw = s.raw := rfl
@[simp] theorem State.raise_codes (k : Cause) : (s.raise k).codes = s.codes := rfl
@[simp] theorem State.raise_reading (k : Cause) : (s.raise k).reading = s.reading := rfl
@[simp] theorem State.raise_status (k : Cause) : (s.raise k).status = putFlag (causeFlag k) true s.status := rfl
@[simp] theorem State.raise_cap (k : Cause) : (s.raise k).cap = s.cap := rfl
@[simp] theorem State.raise_inflight (k : Cause) : (s.raise k).inflight = s.inflight := rfl
@[simp] theorem State.raise_latency (k : Cause) : (s.raise k).latency = s.latency := rfl
@[simp] theorem State.raise_rst (k : Cause) : (s.raise k).rst = s.rst := rfl
@[simp] theorem State.raise_hrdata (k : Cause) : (s.raise k).hrdata = s.hrdata := rfl
@[simp] theorem State.raise_host (k : Cause) : (s.raise k).host = s.host := rfl
@[simp] theorem State.raise_acceptCount (k : Cause) : (s.raise k).acceptCount = s.acceptCount := rfl

end raise

section clearErrors

@[simp] theorem State.clearErrors_a (v : Word) : (s.clearErrors v).a = s.a := rfl
@[simp] theorem State.clearErrors_b (v : Word) : (s.clearErrors v).b = s.b := rfl
@[simp] theorem State.clearErrors_c (v : Word) : (s.clearErrors v).c = s.c := rfl
@[simp] theorem State.clearErrors_r (v : Word) : (s.clearErrors v).r = s.r := rfl
@[simp] theorem State.clearErrors_raw (v : Word) : (s.clearErrors v).raw = s.raw := rfl
@[simp] theorem State.clearErrors_codes (v : Word) : (s.clearErrors v).codes = s.codes := rfl
@[simp] theorem State.clearErrors_reading (v : Word) : (s.clearErrors v).reading = s.reading := rfl
@[simp] theorem State.clearErrors_status (v : Word) : (s.clearErrors v).status = clearIf .ovr (v.getLsbD 4) (clearIf .ill (v.getLsbD 3) s.status) := rfl
@[simp] theorem State.clearErrors_cap (v : Word) : (s.clearErrors v).cap = s.cap := rfl
@[simp] theorem State.clearErrors_inflight (v : Word) : (s.clearErrors v).inflight = s.inflight := rfl
@[simp] theorem State.clearErrors_latency (v : Word) : (s.clearErrors v).latency = s.latency := rfl
@[simp] theorem State.clearErrors_rst (v : Word) : (s.clearErrors v).rst = s.rst := rfl
@[simp] theorem State.clearErrors_hrdata (v : Word) : (s.clearErrors v).hrdata = s.hrdata := rfl
@[simp] theorem State.clearErrors_host (v : Word) : (s.clearErrors v).host = s.host := rfl
@[simp] theorem State.clearErrors_acceptCount (v : Word) : (s.clearErrors v).acceptCount = s.acceptCount := rfl

end clearErrors

section launch

@[simp] theorem State.launch_a (w : Word) (n : Nat) : (s.launch w n).a = s.a := rfl
@[simp] theorem State.launch_b (w : Word) (n : Nat) : (s.launch w n).b = s.b := rfl
@[simp] theorem State.launch_c (w : Word) (n : Nat) : (s.launch w n).c = s.c := rfl
@[simp] theorem State.launch_r (w : Word) (n : Nat) : (s.launch w n).r = s.r := rfl
@[simp] theorem State.launch_raw (w : Word) (n : Nat) : (s.launch w n).raw = s.raw := rfl
@[simp] theorem State.launch_codes (w : Word) (n : Nat) : (s.launch w n).codes = s.codes := rfl
@[simp] theorem State.launch_reading (w : Word) (n : Nat) : (s.launch w n).reading = s.reading := rfl
@[simp] theorem State.launch_status (w : Word) (n : Nat) : (s.launch w n).status = putFlag .busy true s.status := rfl
@[simp] theorem State.launch_cap (w : Word) (n : Nat) : (s.launch w n).cap = ⟨s.a, s.b, s.c, s.raw⟩ := rfl
@[simp] theorem State.launch_inflight (w : Word) (n : Nat) : (s.launch w n).inflight = some w := rfl
@[simp] theorem State.launch_latency (w : Word) (n : Nat) : (s.launch w n).latency = n := rfl
@[simp] theorem State.launch_rst (w : Word) (n : Nat) : (s.launch w n).rst = s.rst := rfl
@[simp] theorem State.launch_hrdata (w : Word) (n : Nat) : (s.launch w n).hrdata = s.hrdata := rfl
@[simp] theorem State.launch_host (w : Word) (n : Nat) : (s.launch w n).host = s.host := rfl
@[simp] theorem State.launch_acceptCount (w : Word) (n : Nat) : (s.launch w n).acceptCount = s.acceptCount := rfl

end launch

section accept

@[simp] theorem State.accept_a (w : Word) : (s.accept w).a = s.a := rfl
@[simp] theorem State.accept_b (w : Word) : (s.accept w).b = s.b := rfl
@[simp] theorem State.accept_c (w : Word) : (s.accept w).c = s.c := rfl
@[simp] theorem State.accept_r (w : Word) : (s.accept w).r = s.r := rfl
@[simp] theorem State.accept_raw (w : Word) : (s.accept w).raw = s.raw := rfl
@[simp] theorem State.accept_codes (w : Word) : (s.accept w).codes = s.codes := rfl
@[simp] theorem State.accept_reading (w : Word) : (s.accept w).reading = s.reading := rfl
@[simp] theorem State.accept_status (w : Word) : (s.accept w).status = putFlag .busy true s.status := rfl
@[simp] theorem State.accept_cap (w : Word) : (s.accept w).cap = ⟨s.a, s.b, s.c, s.raw⟩ := rfl
@[simp] theorem State.accept_inflight (w : Word) : (s.accept w).inflight = some w := rfl
@[simp] theorem State.accept_latency (w : Word) : (s.accept w).latency = Config.latency w s.acceptCount := rfl
@[simp] theorem State.accept_rst (w : Word) : (s.accept w).rst = s.rst := rfl
@[simp] theorem State.accept_hrdata (w : Word) : (s.accept w).hrdata = s.hrdata := rfl
@[simp] theorem State.accept_host (w : Word) : (s.accept w).host = s.host := rfl
@[simp] theorem State.accept_acceptCount (w : Word) : (s.accept w).acceptCount = s.acceptCount + 1 := rfl

end accept

section complete

@[simp] theorem State.complete_a : (s.complete).a = s.a := rfl
@[simp] theorem State.complete_b : (s.complete).b = s.b := rfl
@[simp] theorem State.complete_c : (s.complete).c = s.c := rfl
@[simp] theorem State.complete_r : (s.complete).r = s.r := rfl
@[simp] theorem State.complete_raw : (s.complete).raw = s.raw := rfl
@[simp] theorem State.complete_codes : (s.complete).codes = s.codes := rfl
@[simp] theorem State.complete_reading : (s.complete).reading = s.reading := rfl
@[simp] theorem State.complete_status : (s.complete).status = putFlag .busy false s.status := rfl
@[simp] theorem State.complete_cap : (s.complete).cap = s.cap := rfl
@[simp] theorem State.complete_inflight : (s.complete).inflight = none := rfl
@[simp] theorem State.complete_latency : (s.complete).latency = 0 := rfl
@[simp] theorem State.complete_rst : (s.complete).rst = s.rst := rfl
@[simp] theorem State.complete_hrdata : (s.complete).hrdata = s.hrdata := rfl
@[simp] theorem State.complete_host : (s.complete).host = s.host := rfl
@[simp] theorem State.complete_acceptCount : (s.complete).acceptCount = s.acceptCount := rfl

end complete

section writeR

@[simp] theorem State.writeR_a (v : DWord) : (s.writeR v).a = s.a := rfl
@[simp] theorem State.writeR_b (v : DWord) : (s.writeR v).b = s.b := rfl
@[simp] theorem State.writeR_c (v : DWord) : (s.writeR v).c = s.c := rfl
@[simp] theorem State.writeR_r (v : DWord) : (s.writeR v).r = v := rfl
@[simp] theorem State.writeR_raw (v : DWord) : (s.writeR v).raw = s.raw := rfl
@[simp] theorem State.writeR_codes (v : DWord) : (s.writeR v).codes = s.codes := rfl
@[simp] theorem State.writeR_reading (v : DWord) : (s.writeR v).reading = s.reading := rfl
@[simp] theorem State.writeR_status (v : DWord) : (s.writeR v).status = s.status := rfl
@[simp] theorem State.writeR_cap (v : DWord) : (s.writeR v).cap = s.cap := rfl
@[simp] theorem State.writeR_inflight (v : DWord) : (s.writeR v).inflight = s.inflight := rfl
@[simp] theorem State.writeR_latency (v : DWord) : (s.writeR v).latency = s.latency := rfl
@[simp] theorem State.writeR_rst (v : DWord) : (s.writeR v).rst = s.rst := rfl
@[simp] theorem State.writeR_hrdata (v : DWord) : (s.writeR v).hrdata = s.hrdata := rfl
@[simp] theorem State.writeR_host (v : DWord) : (s.writeR v).host = s.host := rfl
@[simp] theorem State.writeR_acceptCount (v : DWord) : (s.writeR v).acceptCount = s.acceptCount := rfl

end writeR

section commitSigned

@[simp] theorem State.commitSigned_a (v : Int) : (s.commitSigned v).a = s.a := rfl
@[simp] theorem State.commitSigned_b (v : Int) : (s.commitSigned v).b = s.b := rfl
@[simp] theorem State.commitSigned_c (v : Int) : (s.commitSigned v).c = s.c := rfl
@[simp] theorem State.commitSigned_r (v : Int) : (s.commitSigned v).r = sext64 v := rfl
@[simp] theorem State.commitSigned_raw (v : Int) : (s.commitSigned v).raw = s.raw := rfl
@[simp] theorem State.commitSigned_codes (v : Int) : (s.commitSigned v).codes = s.codes := rfl
@[simp] theorem State.commitSigned_reading (v : Int) : (s.commitSigned v).reading = s.reading := rfl
@[simp] theorem State.commitSigned_status (v : Int) : (s.commitSigned v).status = putFlag .busy false s.status := rfl
@[simp] theorem State.commitSigned_cap (v : Int) : (s.commitSigned v).cap = s.cap := rfl
@[simp] theorem State.commitSigned_inflight (v : Int) : (s.commitSigned v).inflight = none := rfl
@[simp] theorem State.commitSigned_latency (v : Int) : (s.commitSigned v).latency = 0 := rfl
@[simp] theorem State.commitSigned_rst (v : Int) : (s.commitSigned v).rst = s.rst := rfl
@[simp] theorem State.commitSigned_hrdata (v : Int) : (s.commitSigned v).hrdata = s.hrdata := rfl
@[simp] theorem State.commitSigned_host (v : Int) : (s.commitSigned v).host = s.host := rfl
@[simp] theorem State.commitSigned_acceptCount (v : Int) : (s.commitSigned v).acceptCount = s.acceptCount := rfl

end commitSigned

section commitUnsigned

@[simp] theorem State.commitUnsigned_a (v : Nat) : (s.commitUnsigned v).a = s.a := rfl
@[simp] theorem State.commitUnsigned_b (v : Nat) : (s.commitUnsigned v).b = s.b := rfl
@[simp] theorem State.commitUnsigned_c (v : Nat) : (s.commitUnsigned v).c = s.c := rfl
@[simp] theorem State.commitUnsigned_r (v : Nat) : (s.commitUnsigned v).r = zext64 v := rfl
@[simp] theorem State.commitUnsigned_raw (v : Nat) : (s.commitUnsigned v).raw = s.raw := rfl
@[simp] theorem State.commitUnsigned_codes (v : Nat) : (s.commitUnsigned v).codes = s.codes := rfl
@[simp] theorem State.commitUnsigned_reading (v : Nat) : (s.commitUnsigned v).reading = s.reading := rfl
@[simp] theorem State.commitUnsigned_status (v : Nat) : (s.commitUnsigned v).status = putFlag .busy false s.status := rfl
@[simp] theorem State.commitUnsigned_cap (v : Nat) : (s.commitUnsigned v).cap = s.cap := rfl
@[simp] theorem State.commitUnsigned_inflight (v : Nat) : (s.commitUnsigned v).inflight = none := rfl
@[simp] theorem State.commitUnsigned_latency (v : Nat) : (s.commitUnsigned v).latency = 0 := rfl
@[simp] theorem State.commitUnsigned_rst (v : Nat) : (s.commitUnsigned v).rst = s.rst := rfl
@[simp] theorem State.commitUnsigned_hrdata (v : Nat) : (s.commitUnsigned v).hrdata = s.hrdata := rfl
@[simp] theorem State.commitUnsigned_host (v : Nat) : (s.commitUnsigned v).host = s.host := rfl
@[simp] theorem State.commitUnsigned_acceptCount (v : Nat) : (s.commitUnsigned v).acceptCount = s.acceptCount := rfl

end commitUnsigned

section writeReading

@[simp] theorem State.writeReading_a (k : AxisCodes) : (s.writeReading k).a = s.a := rfl
@[simp] theorem State.writeReading_b (k : AxisCodes) : (s.writeReading k).b = s.b := rfl
@[simp] theorem State.writeReading_c (k : AxisCodes) : (s.writeReading k).c = s.c := rfl
@[simp] theorem State.writeReading_r (k : AxisCodes) : (s.writeReading k).r = s.r := rfl
@[simp] theorem State.writeReading_raw (k : AxisCodes) : (s.writeReading k).raw = s.raw := rfl
@[simp] theorem State.writeReading_codes (k : AxisCodes) : (s.writeReading k).codes = codeBankOf k := rfl
@[simp] theorem State.writeReading_reading (k : AxisCodes) : (s.writeReading k).reading = readingOf k := rfl
@[simp] theorem State.writeReading_status (k : AxisCodes) : (s.writeReading k).status = putOutcome true (putDeg (bothZero (toField k.x) (toField k.y)) (bothZero (toField k.y) (toField k.z))
      (bothZero (toField k.x) (toField k.z)) s.status) := rfl
@[simp] theorem State.writeReading_cap (k : AxisCodes) : (s.writeReading k).cap = s.cap := rfl
@[simp] theorem State.writeReading_inflight (k : AxisCodes) : (s.writeReading k).inflight = s.inflight := rfl
@[simp] theorem State.writeReading_latency (k : AxisCodes) : (s.writeReading k).latency = s.latency := rfl
@[simp] theorem State.writeReading_rst (k : AxisCodes) : (s.writeReading k).rst = s.rst := rfl
@[simp] theorem State.writeReading_hrdata (k : AxisCodes) : (s.writeReading k).hrdata = s.hrdata := rfl
@[simp] theorem State.writeReading_host (k : AxisCodes) : (s.writeReading k).host = s.host := rfl
@[simp] theorem State.writeReading_acceptCount (k : AxisCodes) : (s.writeReading k).acceptCount = s.acceptCount := rfl

end writeReading

section tick

@[simp] theorem State.tick_a : (s.tick).a = s.a := rfl
@[simp] theorem State.tick_b : (s.tick).b = s.b := rfl
@[simp] theorem State.tick_c : (s.tick).c = s.c := rfl
@[simp] theorem State.tick_r : (s.tick).r = s.r := rfl
@[simp] theorem State.tick_raw : (s.tick).raw = s.raw := rfl
@[simp] theorem State.tick_codes : (s.tick).codes = s.codes := rfl
@[simp] theorem State.tick_reading : (s.tick).reading = s.reading := rfl
@[simp] theorem State.tick_status : (s.tick).status = s.status := rfl
@[simp] theorem State.tick_cap : (s.tick).cap = s.cap := rfl
@[simp] theorem State.tick_inflight : (s.tick).inflight = s.inflight := rfl
@[simp] theorem State.tick_latency : (s.tick).latency = s.latency - 1 := rfl
@[simp] theorem State.tick_rst : (s.tick).rst = s.rst := rfl
@[simp] theorem State.tick_hrdata : (s.tick).hrdata = s.hrdata := rfl
@[simp] theorem State.tick_host : (s.tick).host = s.host := rfl
@[simp] theorem State.tick_acceptCount : (s.tick).acceptCount = s.acceptCount := rfl

end tick

section resetBlock

@[simp] theorem State.resetBlock_a : (s.resetBlock).a = 0#32 := rfl
@[simp] theorem State.resetBlock_b : (s.resetBlock).b = 0#32 := rfl
@[simp] theorem State.resetBlock_c : (s.resetBlock).c = 0#32 := rfl
@[simp] theorem State.resetBlock_r : (s.resetBlock).r = 0#64 := rfl
@[simp] theorem State.resetBlock_raw : (s.resetBlock).raw = RawBlock.reset := rfl
@[simp] theorem State.resetBlock_codes : (s.resetBlock).codes = CodeBank.reset := rfl
@[simp] theorem State.resetBlock_reading : (s.resetBlock).reading = ReadingBank.reset := rfl
@[simp] theorem State.resetBlock_status : (s.resetBlock).status = 0#8 := rfl
@[simp] theorem State.resetBlock_cap : (s.resetBlock).cap = Capture.reset := rfl
@[simp] theorem State.resetBlock_inflight : (s.resetBlock).inflight = none := rfl
@[simp] theorem State.resetBlock_latency : (s.resetBlock).latency = 0 := rfl
@[simp] theorem State.resetBlock_rst : (s.resetBlock).rst = s.rst := rfl
@[simp] theorem State.resetBlock_hrdata : (s.resetBlock).hrdata = s.hrdata := rfl
@[simp] theorem State.resetBlock_host : (s.resetBlock).host = s.host := rfl
@[simp] theorem State.resetBlock_acceptCount : (s.resetBlock).acceptCount = s.acceptCount := rfl

end resetBlock

section hostAt

@[simp] theorem State.hostAt_a (n : Nat) : (s.hostAt n).a = s.a := rfl
@[simp] theorem State.hostAt_b (n : Nat) : (s.hostAt n).b = s.b := rfl
@[simp] theorem State.hostAt_c (n : Nat) : (s.hostAt n).c = s.c := rfl
@[simp] theorem State.hostAt_r (n : Nat) : (s.hostAt n).r = s.r := rfl
@[simp] theorem State.hostAt_raw (n : Nat) : (s.hostAt n).raw = s.raw := rfl
@[simp] theorem State.hostAt_codes (n : Nat) : (s.hostAt n).codes = s.codes := rfl
@[simp] theorem State.hostAt_reading (n : Nat) : (s.hostAt n).reading = s.reading := rfl
@[simp] theorem State.hostAt_status (n : Nat) : (s.hostAt n).status = s.status := rfl
@[simp] theorem State.hostAt_cap (n : Nat) : (s.hostAt n).cap = s.cap := rfl
@[simp] theorem State.hostAt_inflight (n : Nat) : (s.hostAt n).inflight = s.inflight := rfl
@[simp] theorem State.hostAt_latency (n : Nat) : (s.hostAt n).latency = s.latency := rfl
@[simp] theorem State.hostAt_rst (n : Nat) : (s.hostAt n).rst = s.rst := rfl
@[simp] theorem State.hostAt_hrdata (n : Nat) : (s.hostAt n).hrdata = s.hrdata := rfl
@[simp] theorem State.hostAt_host (n : Nat) : (s.hostAt n).host = { s.host with position := n } := rfl
@[simp] theorem State.hostAt_acceptCount (n : Nat) : (s.hostAt n).acceptCount = s.acceptCount := rfl

end hostAt

section hostNext

@[simp] theorem State.hostNext_a : (s.hostNext).a = s.a := rfl
@[simp] theorem State.hostNext_b : (s.hostNext).b = s.b := rfl
@[simp] theorem State.hostNext_c : (s.hostNext).c = s.c := rfl
@[simp] theorem State.hostNext_r : (s.hostNext).r = s.r := rfl
@[simp] theorem State.hostNext_raw : (s.hostNext).raw = s.raw := rfl
@[simp] theorem State.hostNext_codes : (s.hostNext).codes = s.codes := rfl
@[simp] theorem State.hostNext_reading : (s.hostNext).reading = s.reading := rfl
@[simp] theorem State.hostNext_status : (s.hostNext).status = s.status := rfl
@[simp] theorem State.hostNext_cap : (s.hostNext).cap = s.cap := rfl
@[simp] theorem State.hostNext_inflight : (s.hostNext).inflight = s.inflight := rfl
@[simp] theorem State.hostNext_latency : (s.hostNext).latency = s.latency := rfl
@[simp] theorem State.hostNext_rst : (s.hostNext).rst = s.rst := rfl
@[simp] theorem State.hostNext_hrdata : (s.hostNext).hrdata = s.hrdata := rfl
@[simp] theorem State.hostNext_host : (s.hostNext).host = { s.host with position := s.host.position + 1 } := rfl
@[simp] theorem State.hostNext_acceptCount : (s.hostNext).acceptCount = s.acceptCount := rfl

end hostNext

section setHrdata

@[simp] theorem State.setHrdata_a (d : Option Word) : (s.setHrdata d).a = s.a := rfl
@[simp] theorem State.setHrdata_b (d : Option Word) : (s.setHrdata d).b = s.b := rfl
@[simp] theorem State.setHrdata_c (d : Option Word) : (s.setHrdata d).c = s.c := rfl
@[simp] theorem State.setHrdata_r (d : Option Word) : (s.setHrdata d).r = s.r := rfl
@[simp] theorem State.setHrdata_raw (d : Option Word) : (s.setHrdata d).raw = s.raw := rfl
@[simp] theorem State.setHrdata_codes (d : Option Word) : (s.setHrdata d).codes = s.codes := rfl
@[simp] theorem State.setHrdata_reading (d : Option Word) : (s.setHrdata d).reading = s.reading := rfl
@[simp] theorem State.setHrdata_status (d : Option Word) : (s.setHrdata d).status = s.status := rfl
@[simp] theorem State.setHrdata_cap (d : Option Word) : (s.setHrdata d).cap = s.cap := rfl
@[simp] theorem State.setHrdata_inflight (d : Option Word) : (s.setHrdata d).inflight = s.inflight := rfl
@[simp] theorem State.setHrdata_latency (d : Option Word) : (s.setHrdata d).latency = s.latency := rfl
@[simp] theorem State.setHrdata_rst (d : Option Word) : (s.setHrdata d).rst = s.rst := rfl
@[simp] theorem State.setHrdata_hrdata (d : Option Word) : (s.setHrdata d).hrdata = d := rfl
@[simp] theorem State.setHrdata_host (d : Option Word) : (s.setHrdata d).host = s.host := rfl
@[simp] theorem State.setHrdata_acceptCount (d : Option Word) : (s.setHrdata d).acceptCount = s.acceptCount := rfl

end setHrdata

section placeCommand

@[simp] theorem placeCommand_a (w : Word) : (placeCommand w s).a = s.a := rfl
@[simp] theorem placeCommand_b (w : Word) : (placeCommand w s).b = s.b := rfl
@[simp] theorem placeCommand_c (w : Word) : (placeCommand w s).c = s.c := rfl
@[simp] theorem placeCommand_r (w : Word) : (placeCommand w s).r = s.r := rfl
@[simp] theorem placeCommand_raw (w : Word) : (placeCommand w s).raw = s.raw := rfl
@[simp] theorem placeCommand_codes (w : Word) : (placeCommand w s).codes = s.codes := rfl
@[simp] theorem placeCommand_reading (w : Word) : (placeCommand w s).reading = s.reading := rfl
@[simp] theorem placeCommand_status (w : Word) : (placeCommand w s).status = putFlag .busy true s.status := rfl
@[simp] theorem placeCommand_cap (w : Word) : (placeCommand w s).cap = ⟨s.a, s.b, s.c, s.raw⟩ := rfl
@[simp] theorem placeCommand_inflight (w : Word) : (placeCommand w s).inflight = some w := rfl
@[simp] theorem placeCommand_latency (w : Word) : (placeCommand w s).latency = 1 := rfl
@[simp] theorem placeCommand_rst (w : Word) : (placeCommand w s).rst = false := rfl
@[simp] theorem placeCommand_hrdata (w : Word) : (placeCommand w s).hrdata = s.hrdata := rfl
@[simp] theorem placeCommand_host (w : Word) : (placeCommand w s).host = s.host := rfl
@[simp] theorem placeCommand_acceptCount (w : Word) : (placeCommand w s).acceptCount = s.acceptCount := rfl

end placeCommand

section flags

/-- Two different fields of STATUS are different bits, and a written field reads back. -/
@[simp] theorem getFlag_putFlag (f g : Flag) (v : Bool) (st : Byte) :
    getFlag f (putFlag g v st) = if f = g then v else getFlag f st := by
  cases f <;> cases g <;> cases v <;> simp [getFlag, putFlag, flagBit]

@[simp] theorem getFlag_putDeg (f : Flag) (d0 d1 d2 : Bool) (st : Byte) : getFlag f (putDeg d0 d1 d2 st) =
    if f = .deg2 then d2 else if f = .deg1 then d1 else if f = .deg0 then d0 else getFlag f st := by
  simp [putDeg]

@[simp] theorem getFlag_putOutcome (f : Flag) (v : Bool) (st : Byte) : getFlag f (putOutcome v st) =
    if f = .nrdy then !v else if f = .ok then v else getFlag f st := by
  simp [putOutcome]

@[simp] theorem getFlag_clearIf (f g : Flag) (v : Bool) (st : Byte) :
    getFlag f (clearIf g v st) = if f = g then getFlag f st && !v else getFlag f st := by
  cases v <;> simp [clearIf]

@[simp] theorem getFlag_zero (f : Flag) : getFlag f 0#8 = false := by
  simp [getFlag]

/-- STATUS is its eight fields. -/
theorem status_ext {st st' : Byte} (h : ∀ f, getFlag f st = getFlag f st') : st = st' := by
  apply BitVec.eq_of_getLsbD_eq
  intro i hi
  have hf : ∃ f, flagBit f = i := by
    interval_cases i
    exacts [⟨.busy, rfl⟩, ⟨.ok, rfl⟩, ⟨.nrdy, rfl⟩, ⟨.ill, rfl⟩, ⟨.ovr, rfl⟩, ⟨.deg0, rfl⟩, ⟨.deg1, rfl⟩, ⟨.deg2, rfl⟩]
  obtain ⟨f, rfl⟩ := hf
  exact h f

/-- Writing a field with the value it has changes nothing. -/
theorem putFlag_getFlag (f : Flag) (st : Byte) : putFlag f (getFlag f st) st = st :=
  status_ext fun g => by by_cases h : g = f <;> simp [h]

/-- The order of writing two fields does not matter. -/
theorem putFlag_comm {f g : Flag} (h : f ≠ g) (u v : Bool) (st : Byte) :
    putFlag f u (putFlag g v st) = putFlag g v (putFlag f u st) :=
  status_ext fun k => by
    simp only [getFlag_putFlag]
    split_ifs <;> simp_all

theorem putFlag_putFlag (f : Flag) (u v : Bool) (st : Byte) : putFlag f u (putFlag f v st) = putFlag f u st :=
  status_ext fun k => by
    simp only [getFlag_putFlag]
    split_ifs <;> rfl

theorem State.flag_def (f : Flag) : s.flag f = getFlag f s.status := rfl

@[simp] theorem State.setFlag_flag (f g : Flag) (v : Bool) : (s.setFlag g v).flag f = if f = g then v else s.flag f := by
  simp [State.flag]

@[simp] theorem State.setDeg_flag (f : Flag) (d0 d1 d2 : Bool) : (s.setDeg d0 d1 d2).flag f =
    if f = .deg2 then d2 else if f = .deg1 then d1 else if f = .deg0 then d0 else s.flag f := by
  simp [State.flag]

@[simp] theorem State.setOutcome_flag (f : Flag) (v : Bool) : (s.setOutcome v).flag f =
    if f = .nrdy then !v else if f = .ok then v else s.flag f := by
  simp [State.flag]

@[simp] theorem State.raise_flag (f : Flag) (k : Cause) :
    (s.raise k).flag f = if f = causeFlag k then true else s.flag f := by
  simp [State.raise]

@[simp] theorem State.clearErrors_flag (f : Flag) (v : Word) : (s.clearErrors v).flag f =
    if f = .ill then s.flag .ill && !v.getLsbD 3 else if f = .ovr then s.flag .ovr && !v.getLsbD 4 else s.flag f := by
  cases f <;> simp [State.flag]

@[simp] theorem State.launch_flag (f : Flag) (w : Word) (n : Nat) :
    (s.launch w n).flag f = if f = .busy then true else s.flag f := by
  simp [State.flag]

@[simp] theorem State.accept_flag (f : Flag) (w : Word) : (s.accept w).flag f = if f = .busy then true else s.flag f := by
  simp [State.flag]

@[simp] theorem State.complete_flag (f : Flag) : s.complete.flag f = if f = .busy then false else s.flag f := by
  simp [State.flag]

@[simp] theorem State.commitSigned_flag (f : Flag) (v : Int) :
    (s.commitSigned v).flag f = if f = .busy then false else s.flag f := by
  simp [State.flag]

@[simp] theorem State.commitUnsigned_flag (f : Flag) (v : Nat) :
    (s.commitUnsigned v).flag f = if f = .busy then false else s.flag f := by
  simp [State.flag]

@[simp] theorem State.tick_flag (f : Flag) : s.tick.flag f = s.flag f := rfl

@[simp] theorem State.resetBlock_flag (f : Flag) : s.resetBlock.flag f = false := by
  simp [State.flag]

@[simp] theorem State.hostAt_flag (f : Flag) (n : Nat) : (s.hostAt n).flag f = s.flag f := rfl

@[simp] theorem State.hostNext_flag (f : Flag) : s.hostNext.flag f = s.flag f := rfl

@[simp] theorem State.setHrdata_flag (f : Flag) (d : Option Word) : (s.setHrdata d).flag f = s.flag f := rfl

@[simp] theorem placeCommand_flag (f : Flag) (w : Word) :
    (placeCommand w s).flag f = if f = .busy then true else s.flag f := by
  simp [State.flag]

/-- The ready branch of UPDATE on the fields of STATUS (44_update_control.md R212). -/
@[simp] theorem State.writeReading_flag (f : Flag) (k : AxisCodes) : (s.writeReading k).flag f =
    match f with
    | .ok => true
    | .nrdy => false
    | .deg0 => bothZero (toField k.x) (toField k.y)
    | .deg1 => bothZero (toField k.y) (toField k.z)
    | .deg2 => bothZero (toField k.x) (toField k.z)
    | .busy => s.flag .busy
    | .ill => s.flag .ill
    | .ovr => s.flag .ovr := by
  cases f <;> simp [State.flag]

end flags

/-- Two states are equal when every field is. -/
theorem State.ext_of_fields {s t : State} (ha : s.a = t.a) (hb : s.b = t.b) (hc : s.c = t.c) (hr : s.r = t.r)
    (hraw : s.raw = t.raw) (hcodes : s.codes = t.codes) (hreading : s.reading = t.reading) (hstatus : s.status = t.status)
    (hcap : s.cap = t.cap) (hinflight : s.inflight = t.inflight) (hlatency : s.latency = t.latency) (hrst : s.rst = t.rst)
    (hhrdata : s.hrdata = t.hrdata) (hhost : s.host = t.host) (hcount : s.acceptCount = t.acceptCount) : s = t := by
  cases s; cases t; simp_all

end Sys2Proof.Machine
end

