-- ==== Sys2Proof/Laws/Exec.lean ====
section
/-! SUPPORT. The meanings in one line each, and once what any command can do to the state. -/

namespace Sys2Proof.Machine

variable (s : State)

theorem exec_nop : exec .nop s = .next s.complete := rfl

theorem exec_sext12 : exec .sext12 s = .next (s.commitSigned (signfix s.compositeA)) := rfl

theorem exec_decaxL : exec .decaxL s = .next (s.commitSigned (signfix (axisLow s.byteA s.byteB))) := rfl

theorem exec_decaxH : exec .decaxH s = .next (s.commitSigned (signfix (axisHigh s.byteA s.byteB))) := rfl

theorem exec_dect : exec .dect s = .next (s.commitSigned (signfix (tempComposite s.byteA s.byteB))) := rfl

theorem exec_convf : exec .convf s = .next (s.commitSigned (toField s.codeA)) := rfl

theorem exec_convt : exec .convt s = .next (s.commitSigned (toTemperature s.codeA)) := rfl

theorem exec_angle : exec .angle s =
    .next ((s.setDeg (bothZero s.intA s.intB) false false).commitUnsigned (atanQ s.intA s.intB)) := rfl

theorem exec_magsq : exec .magsq s = .next (s.commitUnsigned (sumOfSquares s.intA s.intB s.intC)) := rfl

theorem exec_update_notReady (h : notReady s.cap.raw = true) :
    exec .update s = .next (s.setOutcome false).complete := by
  simp [exec, execUpdate, h]

theorem exec_update_ready (h : notReady s.cap.raw = false) :
    exec .update s = .next (s.writeReading (unpackRaw s.cap.raw)).complete := by
  simp [exec, execUpdate, h]

/-- What a commit can write: R, the banks, and STATUS but for ILL and OVR; BUSY, inflight and the counter are cleared. -/
structure CommitFrame (s t : State) : Prop where
  a : t.a = s.a
  b : t.b = s.b
  c : t.c = s.c
  raw : t.raw = s.raw
  cap : t.cap = s.cap
  inflight : t.inflight = none
  latency : t.latency = 0
  rst : t.rst = s.rst
  hrdata : t.hrdata = s.hrdata
  host : t.host = s.host
  acceptCount : t.acceptCount = s.acceptCount
  busy : t.flag .busy = false
  ill : t.flag .ill = s.flag .ill
  ovr : t.flag .ovr = s.flag .ovr

variable {s}

theorem CommitFrame.ofSigned (v : Int) : CommitFrame s (s.commitSigned v) :=
  ⟨rfl, rfl, rfl, rfl, rfl, rfl, rfl, rfl, rfl, rfl, rfl, by simp, by simp, by simp⟩

theorem CommitFrame.ofUnsigned (v : Nat) : CommitFrame s (s.commitUnsigned v) :=
  ⟨rfl, rfl, rfl, rfl, rfl, rfl, rfl, rfl, rfl, rfl, rfl, by simp, by simp, by simp⟩

/-- The frame of every command, said once. -/
theorem exec_commitFrame {i : Instr} {t : State} (h : exec i s = .next t) : CommitFrame s t := by
  cases i
  case nop =>
    obtain rfl := Host.Outcome.next.inj ((exec_nop s).symm.trans h)
    exact ⟨rfl, rfl, rfl, rfl, rfl, rfl, rfl, rfl, rfl, rfl, rfl, by simp, by simp, by simp⟩
  case sext12 => obtain rfl := Host.Outcome.next.inj ((exec_sext12 s).symm.trans h); exact .ofSigned _
  case decaxL => obtain rfl := Host.Outcome.next.inj ((exec_decaxL s).symm.trans h); exact .ofSigned _
  case decaxH => obtain rfl := Host.Outcome.next.inj ((exec_decaxH s).symm.trans h); exact .ofSigned _
  case dect => obtain rfl := Host.Outcome.next.inj ((exec_dect s).symm.trans h); exact .ofSigned _
  case convf => obtain rfl := Host.Outcome.next.inj ((exec_convf s).symm.trans h); exact .ofSigned _
  case convt => obtain rfl := Host.Outcome.next.inj ((exec_convt s).symm.trans h); exact .ofSigned _
  case angle =>
    obtain rfl := Host.Outcome.next.inj ((exec_angle s).symm.trans h)
    constructor <;> simp
  case magsq => obtain rfl := Host.Outcome.next.inj ((exec_magsq s).symm.trans h); exact .ofUnsigned _
  case update =>
    cases hr : notReady s.cap.raw with
    | true =>
      obtain rfl := Host.Outcome.next.inj ((exec_update_notReady s hr).symm.trans h)
      constructor <;> simp
    | false =>
      obtain rfl := Host.Outcome.next.inj ((exec_update_ready s hr).symm.trans h)
      constructor <;> simp

/-- Every command but UPDATE leaves the banks, OK and NRDY. -/
theorem exec_keeps_banks {i : Instr} {t : State} (h : exec i s = .next t) (hi : i ≠ .update) :
    t.codes = s.codes ∧ t.reading = s.reading ∧ t.flag .ok = s.flag .ok ∧ t.flag .nrdy = s.flag .nrdy := by
  cases i
  case update => exact absurd rfl hi
  all_goals (cases h; simp)

/-- NOP and UPDATE leave R (10_state.md R33). -/
theorem exec_keeps_r {i : Instr} {t : State} (h : exec i s = .next t) (hi : i = .nop ∨ i = .update) : t.r = s.r := by
  obtain rfl | rfl := hi
  · cases h; rfl
  · cases hr : notReady s.cap.raw with
    | true => rw [exec_update_notReady s hr] at h; cases h; simp
    | false => rw [exec_update_ready s hr] at h; cases h; simp

end Sys2Proof.Machine
end

