-- ==== Sys2Proof/Laws/PerInstr.lean ====
section
/-! SUPPORT. The family EncodeDecode: what holds of every command as syntax, one lemma per constructor. -/

namespace Sys2Proof.Laws.EncodeDecode

/-- The command is well formed, its word has RSV = 0 (30_encoding.md R113) and decodes to it (R112). -/
def Statement (i : Instr) : Prop := i.wf = true ∧ rsvField (encode i) = 0#23 ∧ decode (encode i) = .ok i

theorem nop : Statement .nop := ⟨rfl, rfl, rfl⟩

theorem sext12 : Statement .sext12 := ⟨rfl, rfl, rfl⟩

theorem decaxL : Statement .decaxL := ⟨rfl, rfl, rfl⟩

theorem decaxH : Statement .decaxH := ⟨rfl, rfl, rfl⟩

theorem dect : Statement .dect := ⟨rfl, rfl, rfl⟩

theorem convf : Statement .convf := ⟨rfl, rfl, rfl⟩

theorem convt : Statement .convt := ⟨rfl, rfl, rfl⟩

theorem angle : Statement .angle := ⟨rfl, rfl, rfl⟩

theorem magsq : Statement .magsq := ⟨rfl, rfl, rfl⟩

theorem update : Statement .update := ⟨rfl, rfl, rfl⟩

end Sys2Proof.Laws.EncodeDecode
end

