-- ==== Sys2Proof/Laws/Port.lean ====
section
/-! SUPPORT. The register map read both ways, and what a write at the port can and cannot change. -/

namespace Sys2Proof.Machine

/-- The two readings of the register map agree. -/
@[simp] theorem regAt_regIndex (r : Reg) : regAt (regIndex r) = some r := by cases r <;> rfl

theorem regIndex_injective {r r' : Reg} (h : regIndex r = regIndex r') : r = r' := by
  have := congrArg regAt h
  simpa using this

/-- The register at an index, by enumeration of the 64 indices. -/
theorem regAt_some {idx : Index} {r : Reg} (h : regAt idx = some r) : idx = regIndex r := by
  have key : ∀ idx : Index, (regAt idx).all (fun r => regIndex r == idx) = true := by decide
  have := key idx
  rw [h] at this
  simpa using (beq_iff_eq.mp this).symm

theorem regAt_eq_some_iff {idx : Index} {r : Reg} : regAt idx = some r ↔ idx = regIndex r :=
  ⟨regAt_some, fun h => h ▸ regAt_regIndex r⟩

/-- The reserved indices are exactly those of 20_memory.md R83. -/
theorem regAt_none_iff (idx : Index) :
    regAt idx = none ↔ (idx = 0x07#6 ∨ idx = 0x0F#6 ∨ (0x1D ≤ idx.toNat ∧ idx.toNat ≤ 0x3E)) := by
  revert idx
  decide

@[simp] theorem hostRead_regIndex (r : Reg) (s : State) : hostRead (regIndex r) s = readReg r s := by
  simp [hostRead]

@[simp] theorem hostWrite_regIndex (r : Reg) (v : Word) (s : State) : hostWrite (regIndex r) v s = writeReg r v s := by
  simp [hostWrite]

/-- What a write at any index leaves: itself, one register write. -/
theorem hostWrite_cases (idx : Index) (v : Word) (s : State) :
    hostWrite idx v s = s ∨ ∃ r, idx = regIndex r ∧ hostWrite idx v s = writeReg r v s := by
  cases h : regAt idx with
  | none => left; simp [hostWrite, h]
  | some r => right; exact ⟨r, regAt_some h, by simp [hostWrite, h]⟩

/-- The three outcomes of a word written to CMD (60_exceptions.md R230). -/
theorem writeCmd_cases (w : Word) (s : State) :
    (s.flag .busy = true ∧ writeCmd w s = s.raise .ovr) ∨
    (s.flag .busy = false ∧ (∀ i, decode w ≠ .ok i) ∧ writeCmd w s = s.raise .ill) ∨
    (s.flag .busy = false ∧ (∃ i, decode w = .ok i) ∧ writeCmd w s = s.accept w) := by
  cases hb : s.flag .busy with
  | true => left; simp [writeCmd, hb]
  | false =>
    right
    cases hd : decode w with
    | error e => left; simp [writeCmd, hb, hd]
    | ok i => right; simp [writeCmd, hb, hd]

/-- What no host write changes: results, banks, the port, the host. -/
structure WriteFrame (s t : State) : Prop where
  r : t.r = s.r
  codes : t.codes = s.codes
  reading : t.reading = s.reading
  rst : t.rst = s.rst
  hrdata : t.hrdata = s.hrdata
  host : t.host = s.host
  flags : ∀ f, f ≠ .busy → f ≠ .ill → f ≠ .ovr → t.flag f = s.flag f

theorem writeCmd_frame (w : Word) (s : State) : WriteFrame s (writeCmd w s) := by
  obtain ⟨-, h⟩ | ⟨-, -, h⟩ | ⟨-, -, h⟩ := writeCmd_cases w s <;> rw [h]
  · exact ⟨rfl, rfl, rfl, rfl, rfl, rfl, fun f _ _ h3 => by simp [causeFlag, h3]⟩
  · exact ⟨rfl, rfl, rfl, rfl, rfl, rfl, fun f _ h2 _ => by simp [causeFlag, h2]⟩
  · exact ⟨rfl, rfl, rfl, rfl, rfl, rfl, fun f h1 _ _ => by simp [h1]⟩

theorem writeReg_frame (r : Reg) (v : Word) (s : State) : WriteFrame s (writeReg r v s) := by
  cases r
  case cmd => exact writeCmd_frame v s
  case status =>
    exact ⟨by simp [writeReg], by simp [writeReg], by simp [writeReg], by simp [writeReg], by simp [writeReg],
      by simp [writeReg], fun f _ h2 h3 => by simp [writeReg, h2, h3]⟩
  all_goals exact ⟨rfl, rfl, rfl, rfl, rfl, rfl, fun f _ _ _ => rfl⟩

theorem hostWrite_frame (idx : Index) (v : Word) (s : State) : WriteFrame s (hostWrite idx v s) := by
  obtain h | ⟨r, -, h⟩ := hostWrite_cases idx v s <;> rw [h]
  · exact ⟨rfl, rfl, rfl, rfl, rfl, rfl, fun f _ _ _ => rfl⟩
  · exact writeReg_frame r v s

/-- Only a write to CMD touches the hidden state of the command and BUSY. -/
theorem writeReg_command (r : Reg) (v : Word) (s : State) (h : r ≠ .cmd) :
    (writeReg r v s).inflight = s.inflight ∧ (writeReg r v s).latency = s.latency ∧ (writeReg r v s).cap = s.cap ∧
    (writeReg r v s).acceptCount = s.acceptCount ∧ (writeReg r v s).flag .busy = s.flag .busy := by
  cases r <;> first | exact absurd rfl h | exact ⟨rfl, rfl, rfl, rfl, rfl⟩ | simp [writeReg]

/-- A command in flight is not disturbed by any host write (60_exceptions.md R232, 70_reset_and_hazards.md R264). -/
theorem hostWrite_busy (idx : Index) (v : Word) (s : State) (hb : s.flag .busy = true) :
    (hostWrite idx v s).inflight = s.inflight ∧ (hostWrite idx v s).latency = s.latency ∧
    (hostWrite idx v s).cap = s.cap ∧ (hostWrite idx v s).acceptCount = s.acceptCount ∧
    (hostWrite idx v s).flag .busy = true := by
  obtain h | ⟨r, -, h⟩ := hostWrite_cases idx v s <;> rw [h]
  · exact ⟨rfl, rfl, rfl, rfl, hb⟩
  · by_cases hr : r = .cmd
    · subst hr
      simp [writeReg, writeCmd, hb, causeFlag]
    · simpa [hb] using writeReg_command r v s hr

end Sys2Proof.Machine
end

