-- ==== Sys2Proof/Laws/Step.lean ====
section
/-! SUPPORT. What a step can do, said once: the host's step and the machine's step inverted into their cases. -/

namespace Sys2Proof.Machine

@[simp] theorem portRead_run (idx : Index) {s : State} (h : s.rst = false) : portRead idx s = hostRead idx s := by
  simp [portRead, h]

@[simp] theorem portRead_reset (idx : Index) {s : State} (h : s.rst = true) : portRead idx s = 0 := by
  simp [portRead, h]

@[simp] theorem portWrite_run (idx : Index) (v : Word) {s : State} (h : s.rst = false) :
    portWrite idx v s = hostWrite idx v s := by
  simp [portWrite, h]

@[simp] theorem portWrite_reset (idx : Index) (v : Word) {s : State} (h : s.rst = true) : portWrite idx v s = s := by
  simp [portWrite, h]

/-- Raising RST puts the block at reset. -/
theorem stepRst_true (s : State) :
    stepRst true s = { (s.resetBlock.setHrdata none).hostNext with rst := true } := by
  simp [stepRst]

/-- Lowering RST, or driving it low again, changes nothing of the block. -/
theorem stepRst_false (s : State) : stepRst false s = { (s.setHrdata none).hostNext with rst := false } := by
  simp [stepRst]

@[simp] theorem stepRst_rst (level : Bool) (s : State) : (stepRst level s).rst = level := rfl

@[simp] theorem stepRst_flag (level : Bool) (s : State) (f : Flag) :
    (stepRst level s).flag f = if level then false else s.flag f := by
  cases level
  · rw [stepRst_false]; rfl
  · rw [stepRst_true, if_pos rfl]; exact s.resetBlock_flag f

/-- A statement that writes `v` at `idx`: a host write, or a whole aligned bridge write. -/
inductive WritesAt (idx : Index) (v : Word) : HostStmt → Prop where
  | access : WritesAt idx v (.access (.write idx v))
  | bridge : WritesAt idx v (.busWrite (Config.tlvBase + 4 * idx.toNat) 4 v)

/-- A bridge access that is served reaches the slot at TLV_BASE + 4 * idx, with one whole word. -/
theorem bridgeIndex_ok {addr size : Nat} {idx : Index} (h : bridgeIndex addr size = .ok idx) :
    size = 4 ∧ addr = Config.tlvBase + 4 * idx.toNat := by
  unfold bridgeIndex at h
  split_ifs at h with h1 h2
  · cases h
    refine ⟨by omega, ?_⟩
    rw [busSlot, BitVec.toNat_ofNat]
    omega

/-- The address of a slot lies in that slot. -/
@[simp] theorem busSlot_slot (idx : Index) : busSlot (Config.tlvBase + 4 * idx.toNat) = idx := by
  have := idx.isLt
  apply BitVec.eq_of_toNat_eq
  rw [busSlot, BitVec.toNat_ofNat]
  omega

theorem bridgeIndex_slot (idx : Index) : bridgeIndex (Config.tlvBase + 4 * idx.toNat) 4 = .ok idx := by
  have := idx.isLt
  unfold bridgeIndex
  rw [if_neg (by omega), if_neg (by omega), busSlot_slot]

/-- Served in the sense of WellFormed is served by the bridge. -/
theorem bridgeIndex_served {addr size : Nat} (h : busWf addr size = true) : ∃ idx, bridgeIndex addr size = .ok idx := by
  simp only [busWf, Bool.and_eq_true, beq_iff_eq, decide_eq_true_eq] at h
  unfold bridgeIndex
  rw [if_neg (by omega), if_neg (by omega)]
  exact ⟨_, rfl⟩

/-- A well-formed statement asks nothing that the spec gives no meaning. -/
theorem HostStmt.wf_served {len : Nat} {st : HostStmt} (h : st.wf len = true) : st.Served := by
  cases st with
  | busWrite addr size v => exact (Bool.and_eq_true _ _ ▸ (show busWriteWf addr size = true from h)).1
  | busRead addr size => exact h
  | access | bnz | b | bBusyo | rst => trivial

/-- What one host statement leaves. -/
theorem execStmt_next {st : HostStmt} {s t : State} (h : execStmt st s = .next t) :
    (∃ idx v, WritesAt idx v st ∧ t = stepWrite idx v s) ∨
    (∃ d n, t = (s.setHrdata d).hostAt n) ∨
    (∃ level, st = .rst level ∧ t = stepRst level s) := by
  cases st with
  | access acc =>
    cases acc with
    | write idx v => cases h; exact .inl ⟨idx, v, .access, rfl⟩
    | read idx => cases h; exact .inr (.inl ⟨_, _, rfl⟩)
  | bnz idx mask target => cases h; exact .inr (.inl ⟨_, _, rfl⟩)
  | b target => cases h; exact .inr (.inl ⟨_, _, rfl⟩)
  | bBusyo target => cases h; exact .inr (.inl ⟨_, _, rfl⟩)
  | busWrite addr size v =>
    simp only [execStmt] at h
    split at h
    · next idx hi =>
      obtain ⟨rfl, rfl⟩ := bridgeIndex_ok hi
      cases h
      exact .inl ⟨idx, v, .bridge, rfl⟩
    · cases h
  | busRead addr size =>
    simp only [execStmt] at h
    split at h
    · cases h; exact .inr (.inl ⟨_, _, rfl⟩)
    · cases h
  | rst level => cases h; exact .inr (.inr ⟨level, rfl, rfl⟩)

/-- What the host's step leaves. -/
theorem hostStep_next {s t : State} (h : hostStep s = .next t) :
    (∃ idx v st, s.host.program[s.host.position]? = some st ∧ WritesAt idx v st ∧ t = stepWrite idx v s) ∨
    (∃ d n, t = (s.setHrdata d).hostAt n) ∨
    (∃ level, s.host.program[s.host.position]? = some (.rst level) ∧ t = stepRst level s) := by
  unfold hostStep at h
  split at h
  · next st hst =>
    obtain ⟨idx, v, hw, ht⟩ | ⟨d, n, ht⟩ | ⟨level, rfl, ht⟩ := execStmt_next h
    · exact .inl ⟨idx, v, st, hst, hw, ht⟩
    · exact .inr (.inl ⟨d, n, ht⟩)
    · exact .inr (.inr ⟨level, hst, ht⟩)
  · cases h; exact .inr (.inl ⟨none, s.host.position, rfl⟩)

theorem step_reset {s : State} (h : s.rst = true) : step s = hostStep s.resetBlock := by
  simp [step, oneStep, h]

theorem step_idle {s : State} (h : s.rst = false) (hi : s.inflight = none) : step s = hostStep s := by
  simp [step, oneStep, h, hi]

theorem step_busy {s : State} {w : Word} (h : s.rst = false) (hi : s.inflight = some w) (hl : 1 < s.latency) :
    step s = hostStep s.tick := by
  simp [step, oneStep, h, hi, Nat.not_le.mpr hl]

theorem step_commit {s : State} {w : Word} (h : s.rst = false) (hi : s.inflight = some w) (hl : s.latency ≤ 1) :
    step s = commitStep w s := by
  simp [step, oneStep, h, hi, hl]

theorem commitStep_next {w : Word} {s t : State} (h : commitStep w s = .next t) :
    ∃ i, decode w = .ok i ∧ exec i s = .next t := by
  unfold commitStep at h
  split at h
  · next i hd => exact ⟨i, hd, h⟩
  · cases h

/-- What a step can do: the host moves under reset, the host moves, or a command commits. -/
theorem step_next {s t : State} (h : step s = .next t) :
    (s.rst = true ∧ hostStep s.resetBlock = .next t) ∨
    (s.rst = false ∧ s.inflight = none ∧ hostStep s = .next t) ∨
    (s.rst = false ∧ (∃ w, s.inflight = some w) ∧ 1 < s.latency ∧ hostStep s.tick = .next t) ∨
    (s.rst = false ∧ ∃ w i, s.inflight = some w ∧ s.latency ≤ 1 ∧ decode w = .ok i ∧ exec i s = .next t) := by
  cases hr : s.rst with
  | true => rw [step_reset hr] at h; exact .inl ⟨rfl, h⟩
  | false =>
    right
    cases hi : s.inflight with
    | none => rw [step_idle hr hi] at h; exact .inl ⟨rfl, rfl, h⟩
    | some w =>
      right
      by_cases hl : s.latency ≤ 1
      · rw [step_commit hr hi hl] at h
        obtain ⟨i, hd, he⟩ := commitStep_next h
        exact .inr ⟨rfl, w, i, rfl, hl, hd, he⟩
      · rw [step_busy hr hi (Nat.not_le.mp hl)] at h
        exact .inl ⟨rfl, ⟨w, rfl⟩, Nat.not_le.mp hl, h⟩

end Sys2Proof.Machine
end

