-- ==== Sys2Proof/Laws/Unpack.lean ====
section
/-! SUPPORT. The UNPACK unit's bit operations as arithmetic on the operands' values. -/

namespace Sys2Proof.Machine

theorem byte_lowNibble (l : Byte) : (l &&& 0x0F#8).toNat = l.toNat % 16 := by revert l; decide

theorem byte_highNibble (l : Byte) : ((l &&& 0xF0#8) >>> 4).toNat = l.toNat / 16 := by revert l; decide

theorem byte_highPart (l : Byte) : (l &&& 0xF0#8).toNat = l.toNat / 16 * 16 := by revert l; decide

/-- A high part shifted by four places and a part below 2^4 do not overlap. -/
theorem shifted_or_toNat (p q : Composite) (hp : p.toNat < 256) (hq : q.toNat < 16) :
    ((p <<< 4) ||| q).toNat = p.toNat * 16 + q.toNat := by
  have h := Nat.shiftLeft_add_eq_or_of_lt (b := q.toNat) (i := 4) hq p.toNat
  rw [BitVec.toNat_or, BitVec.toNat_shiftLeft, Nat.mod_eq_of_lt (by rw [Nat.shiftLeft_eq]; omega), ← h, Nat.shiftLeft_eq]

theorem axisLow_toNat (h l : Byte) : (axisLow h l).toNat = h.toNat * 16 + l.toNat % 16 := by
  have hl := l.isLt
  have hh := h.isLt
  have e : ((l &&& 0x0F#8).setWidth 12).toNat = l.toNat % 16 := by
    rw [BitVec.toNat_setWidth, byte_lowNibble]; omega
  have eh : (h.setWidth 12).toNat = h.toNat := by rw [BitVec.toNat_setWidth]; omega
  rw [axisLow, shifted_or_toNat _ _ (by omega) (by omega), e, eh]

theorem axisHigh_toNat (h l : Byte) : (axisHigh h l).toNat = h.toNat * 16 + l.toNat / 16 := by
  have hl := l.isLt
  have hh := h.isLt
  have e : (((l &&& 0xF0#8) >>> 4).setWidth 12).toNat = l.toNat / 16 := by
    rw [BitVec.toNat_setWidth, byte_highNibble]; omega
  have eh : (h.setWidth 12).toNat = h.toNat := by rw [BitVec.toNat_setWidth]; omega
  rw [axisHigh, shifted_or_toNat _ _ (by omega) (by omega), e, eh]

theorem tempComposite_toNat (st t : Byte) : (tempComposite st t).toNat = st.toNat / 16 * 256 + t.toNat := by
  have hs := st.isLt
  have ht := t.isLt
  have e : ((st &&& 0xF0#8).setWidth 12).toNat = st.toNat / 16 * 16 := by
    rw [BitVec.toNat_setWidth, byte_highPart]; omega
  have et : (t.setWidth 12).toNat = t.toNat := by rw [BitVec.toNat_setWidth]; omega
  have h := Nat.shiftLeft_add_eq_or_of_lt (b := t.toNat) (i := 8) ht (st.toNat / 16)
  have e2 : (st.toNat / 16 * 16) <<< 4 = (st.toNat / 16) <<< 8 := by simp only [Nat.shiftLeft_eq]; omega
  rw [tempComposite, Config.tempHiMask, BitVec.toNat_or, BitVec.toNat_shiftLeft, e, et, e2,
    Nat.mod_eq_of_lt (by rw [Nat.shiftLeft_eq]; omega), ← h, Nat.shiftLeft_eq]

theorem signfix_eq (v : Composite) : signfix v = if v.toNat < 2048 then (v.toNat : Int) else (v.toNat : Int) - 4096 := rfl

theorem signfix_range (v : Composite) : -2048 ≤ signfix v ∧ signfix v ≤ 2047 := by
  have := v.isLt
  rw [signfix_eq]
  split <;> omega

theorem compositeA_toNat (s : State) : s.compositeA.toNat = s.cap.a.toNat % 4096 := by
  simp [State.compositeA, BitVec.extractLsb'_toNat]

theorem byteA_toNat (s : State) : s.byteA.toNat = s.cap.a.toNat % 256 := by
  simp [State.byteA, BitVec.extractLsb'_toNat]

theorem byteB_toNat (s : State) : s.byteB.toNat = s.cap.b.toNat % 256 := by
  simp [State.byteB, BitVec.extractLsb'_toNat]

/-- Every unpacked code is in range (10_state.md R36). -/
theorem unpackRaw_inRange (raw : RawBlock) : (unpackRaw raw).InRange :=
  ⟨signfix_range _, signfix_range _, signfix_range _, signfix_range _⟩

end Sys2Proof.Machine
end

