-- ==== Sys2Proof/Tests/Slice0.lean ====
section
/-! SUPPORT. Small checks against values the spec writes out (95_test_vectors.md unless said otherwise), the terms that
WellFormed refuses, and for each statement with hypotheses a state or operands that meet them all. -/

namespace Sys2Proof.Tests

open Sys2Proof.Machine Sys2Proof.Statements

/-! ## Helpers -/

/-- The state of an outcome, or reset where it stops. -/
def after (o : Host.Outcome State Fault Refusal) : State :=
  match o with
  | .next t => t
  | .fault _ => State.reset
  | .refused _ => State.reset

/-- Reset with A, B and C loaded and the command word `w` accepted. -/
def command (w : Nat) (a b c : Word) : State := { State.reset with a := a, b := b, c := c }.withFetchWord 32 w

/-- R and STATUS after the one step that commits it. -/
def result (w : Nat) (a b c : Word) : DWord × Byte :=
  let t := after (step (command w a b c))
  (t.r, t.status)

/-- Reset with the raw block loaded and UPDATE accepted. -/
def updateOf (raw : RawBlock) : State := { State.reset with raw := raw }.withFetchWord 32 8

/-- The raw block of vector U1. -/
def rawU1 : RawBlock := ⟨0x12#8, 0xF3#8, 0x80#8, 0x54#8, 0xA7#8, 0x0C#8, 0x9B#8⟩

/-- Reset with a host program of one statement. -/
def hosted (st : HostStmt) : State := State.reset.loadProgram [st]

/-- The same while UPDATE is in flight, two steps from its commit. -/
def hostedBusy (st : HostStmt) : State := { (hosted st).withFetchWord 32 8 with latency := 2 }

/-! ## WellFormed refuses -/

theorem test_wf_reserved_write : (Access.write 0x20#6 5#32).wf = false ∧ (Access.write 0x07#6 5#32).wf = false ∧
    (Access.read 0x20#6).wf = true := by decide

theorem test_wf_branch_past_end : programWf [.b 2] = false ∧ programWf [.bnz 0x01#6 1#32 2] = false ∧
    programWf [.bBusyo 2] = false ∧ programWf [.b 1, .bnz 0x01#6 1#32 0] = true := by decide

theorem test_wf_bus_subword : busWf Config.tlvBase 2 = false := by simp [busWf]

theorem test_wf_bus_misaligned : busWf (Config.tlvBase + 2) 4 = false := by simp [busWf]

theorem test_wf_bus_outside : busWf (Config.tlvBase + 256) 4 = false := by simp [busWf]

/-- A bridge write to the reserved slot 0x07 is refused as a direct one is, and one to A is not (20_memory.md R83; 93 I4). -/
theorem test_wf_bus_reserved_write :
    (HostStmt.busWrite (Config.tlvBase + 4 * 7) 4 0#32).wf 1 = false ∧
    (HostStmt.busWrite (Config.tlvBase + 4 * 2) 4 0#32).wf 1 = true ∧
    (HostStmt.busRead (Config.tlvBase + 4 * 7) 4).wf 1 = true := by
  simp [HostStmt.wf, busWriteWf, busWf, busSlot, regAt]

theorem test_wf_bus_last_slot : busWf (Config.tlvBase + 252) 4 = true := by simp [busWf]

/-! ## Decoding: words written out from 30_encoding.md R110 (RSV, NSEL, OP) -/

theorem test_decode_nop : decode 0b00000000000000000000000_0_00000000#32 = .ok .nop := by rfl

theorem test_decode_sext12 : decode 0b00000000000000000000000_0_00000001#32 = .ok .sext12 := by rfl

theorem test_decode_decaxL : decode 0b00000000000000000000000_0_00000010#32 = .ok .decaxL := by rfl

theorem test_decode_decaxH : decode 0b00000000000000000000000_1_00000010#32 = .ok .decaxH := by rfl

theorem test_decode_dect : decode 0b00000000000000000000000_0_00000011#32 = .ok .dect := by rfl

theorem test_decode_convf : decode 0b00000000000000000000000_0_00000100#32 = .ok .convf := by rfl

theorem test_decode_convt : decode 0b00000000000000000000000_0_00000101#32 = .ok .convt := by rfl

theorem test_decode_angle : decode 0b00000000000000000000000_0_00000110#32 = .ok .angle := by rfl

theorem test_decode_magsq : decode 0b00000000000000000000000_0_00000111#32 = .ok .magsq := by rfl

theorem test_decode_update : decode 0b00000000000000000000000_0_00001000#32 = .ok .update := by rfl

/-- The illegal words of section 2.9. -/
theorem test_decode_illegal : decode 0x00000009#32 = .error .opOutOfRange ∧ decode 0x00000201#32 = .error .reservedBits ∧
    decode 0x00000101#32 = .error .nselNotAllowed ∧ decode 0x80000000#32 = .error .reservedBits := ⟨rfl, rfl, rfl, rfl⟩

/-- The host's table words. -/
theorem test_decodeTableWord : decodeTableWord 32 0x102 = some .decaxH ∧ decodeTableWord 32 0x100 = none := by decide

/-- 30_encoding.md R119's own examples. -/
theorem test_access_record : encodeAccess (.write 0x02#6 0x7F#32) = 0x420000007F#39 ∧
    encodeAccess (.read 0x05#6) = 0x0500000000#39 := by decide

/-! ## One step of each command -/

/-- 44_update_control.md R210. -/
theorem test_nop : result 0x000 7#32 8#32 9#32 = (0#64, 0#8) := by decide

theorem test_sext12_negative : result 0x001 0x12345FFF#32 0#32 0#32 = (0xFFFFFFFFFFFFFFFF#64, 0#8) := by decide

theorem test_sext12_boundary : result 0x001 0x00000800#32 0#32 0#32 = (0xFFFFFFFFFFFFF800#64, 0#8) := by decide

theorem test_decaxL : result 0x002 0xF3#32 0xA7#32 0#32 = (0xFFFFFFFFFFFFFF37#64, 0#8) := by decide

theorem test_decaxL_discards : result 0x002 0x80#32 0xF0#32 0#32 = (0xFFFFFFFFFFFFF800#64, 0#8) := by decide

theorem test_decaxH : result 0x102 0x12#32 0xA7#32 0#32 = (0x000000000000012A#64, 0#8) := by decide

theorem test_decaxH_discards : result 0x102 0x1FF#32 0x3F0#32 0#32 = (0xFFFFFFFFFFFFFFFF#64, 0#8) := by decide

theorem test_dect : result 0x003 0x54#32 0x9B#32 0#32 = (0x000000000000059B#64, 0#8) := by decide

theorem test_dect_discards : result 0x003 0x0F#32 0xFF#32 0#32 = (0x00000000000000FF#64, 0#8) := by decide

theorem test_convf : result 0x004 0x000007FF#32 0#32 0#32 = (0x0000000000030F9E#64, 0#8) := by decide

theorem test_convf_negative : result 0x004 0xFFFFF801#32 0#32 0#32 = (0xFFFFFFFFFFFCF062#64, 0#8) := by decide

theorem test_convt : result 0x005 0xFFFFF800#32 0#32 0#32 = (0xFFFFFFFFFFFF9A40#64, 0#8) := by decide

theorem test_convt_positive : result 0x005 0x000007FF#32 0#32 0#32 = (0x0000000000004A35#64, 0#8) := by decide

/-- W12: A is x and B is y. -/
theorem test_angle_axis : result 0x006 0#32 0xFFFFFFFF#32 0#32 = (0x96CBE3FA#64, 0#8) := by decide

/-- W13: DEG0. -/
theorem test_angle_degenerate : result 0x006 0#32 0#32 9#32 = (0#64, 0x20#8) := by decide

theorem test_magsq : result 0x007 0x00030F9E#32 0xFFFCF000#32 0x62#32 = (0x00000012BFA80B08#64, 0#8) := by decide

theorem test_magsq_largest :
    result 0x007 0x80000000#32 0x80000000#32 0x80000000#32 = (0xC000000000000000#64, 0#8) := by decide

/-- U1, but for the angles, whose codes the implementation chooses. -/
theorem test_update_ready :
    let t := after (step (updateOf rawU1))
    t.codes = ⟨0x0000012A#32, 0xFFFFFF37#32, 0xFFFFF80C#32, 0x0000059B#32⟩ ∧ t.reading.bX = 0x00007214#32 ∧
    t.reading.bY = 0xFFFFB30E#32 ∧ t.reading.bZ = 0xFFFCF498#32 ∧ t.reading.temp = 0x00002FE9#32 ∧
    t.reading.m2 = 0x000000098EE88094#64 ∧ t.status = 0x02#8 := by decide

/-- U5, from a state that holds a reading: OK cleared, NRDY set, the reading kept. -/
theorem test_update_notReady :
    let s := after (step (updateOf ⟨0#8, 0#8, 5#8, 0x14#8, 0#8, 3#8, 0x40#8⟩))
    let t := after (step ({ s with raw := { s.raw with raw3 := 0x57#8 } }.withFetchWord 32 8))
    s.status = 0x22#8 ∧ t.status = 0x24#8 ∧ t.reading.bZ = 0x00001FC6#32 ∧ t.reading.phiYZ = 0x3243F6A9#32 := by decide

/-! ## ATAN: the faithful sets and reference codes of section 2.6 -/

theorem test_atan_first_quadrant :
    faithfulCode false 3 4 = 497837829 ∧ faithfulCode true 3 4 = 497837830 ∧ nearestCode 3 4 = 497837829 := by
  decide +kernel

theorem test_atan_second_quadrant :
    faithfulCode false (-3) 4 = 1188791883 ∧ faithfulCode true (-3) 4 = 1188791884 ∧ nearestCode (-3) 4 = 1188791884 := by
  decide +kernel

theorem test_atan_third_quadrant :
    faithfulCode false (-3) (-4) = 2184467542 ∧ faithfulCode true (-3) (-4) = 2184467543 ∧
    nearestCode (-3) (-4) = 2184467542 := by
  decide +kernel

theorem test_atan_fourth_quadrant :
    faithfulCode false 2147483647 (-1) = 3373259425 ∧ faithfulCode true 2147483647 (-1) = 3373259426 ∧
    nearestCode 2147483647 (-1) = 3373259426 := by
  decide +kernel

theorem test_atan_near_axis :
    faithfulCode false 2147483647 1 = 0 ∧ faithfulCode true 2147483647 1 = 1 ∧
    faithfulCode false (-2147483648) 2147483647 = 1264972284 ∧ faithfulCode true 1 (-2147483648) = 2529944570 := by
  decide +kernel

/-! ## The port and the protocol (section 2.9) -/

theorem test_illegal_word : (hostWrite 0x00#6 0x00000009#32 State.reset).status = 0x08#8 := by decide

theorem test_dropped_word :
    (hostWrite 0x00#6 0x00000009#32 (command 7 0#32 0#32 0#32)).status = 0x11#8 := by decide

theorem test_w1c : (hostWrite 0x01#6 0x00000008#32 { State.reset with status := 0x18#8 }).status = 0x10#8 ∧
    (hostWrite 0x01#6 0xFFFFFFE7#32 { State.reset with status := 0x18#8 }).status = 0x18#8 := by decide

theorem test_raw_write : hostRead 0x0A#6 (hostWrite 0x0A#6 0x12345680#32 State.reset) = 0x80#32 := by decide

theorem test_id : hostRead 0x3F#6 State.reset = 0x544C5601#32 := by decide

/-- R is split low word first (20_memory.md R86). -/
theorem test_result_halves :
    hostRead 0x05#6 { State.reset with r := 0x0123456789ABCDEF#64 } = 0x89ABCDEF#32 ∧
    hostRead 0x06#6 { State.reset with r := 0x0123456789ABCDEF#64 } = 0x01234567#32 := by decide

/-- 60_exceptions.md R239: the level output is a copy of BUSY; the host waits on it while a command runs. -/
theorem test_busyo : (after (step (hostedBusy (.bBusyo 0)))).host.position = 0 ∧
    (after (step (hosted (.bBusyo 0)))).host.position = 1 := by decide

/-- Program P1 as text, and its records. -/
theorem test_assemble :
    assembleText ["start: wr A, 0x80  ; the high byte", "DECX", "  poll", "rd R_HI", "b start"] =
      some [.access (.write 0x02#6 0x80#32), .access (.write 0x00#6 0x102#32), .bnz 0x01#6 1#32 2,
        .access (.read 0x06#6), .b 0] := by
  decide +kernel

theorem test_assemble_number : numberValue "-1" = some 0xFFFFFFFF#32 ∧ numberValue "0x1F" = some 31#32 ∧
    numberValue "100" = some 100#32 ∧ numberValue "4294967296" = none := by
  decide +kernel

/-! ## Witnesses: each statement's hypotheses are met -/

theorem witness_AccessRecordRoundTrip :
    decodeAccess 0x420000007F#39 = some (.write 0x02#6 0x7F#32) ∧ decodeAccess 0x0500000000#39 = some (.read 0x05#6) := by
  decide

/-- The ends of each range of bit numbers. -/
theorem witness_CompositeBitMaps : (7 < 8 ∧ 3 < 4 ∧ 0 < 4) ∧ (axisLow 0x80#8 0xF0#8).getLsbD (7 + 4) = true ∧
    (axisHigh 0x00#8 0x80#8).getLsbD 3 = true ∧ (tempComposite 0x80#8 0x00#8).getLsbD (3 + 8) = true := by decide

theorem witness_NopResult : (command 7 0#32 0#32 0#32).flag .busy = true := by decide

/-- Programs that assemble: none, and one with a label. -/
theorem witness_PseudoInstructionExpansions :
    assemble [] = some [] ∧ assemble [.label "x", .b "x"] = some [.b 0] := ⟨rfl, by decide⟩

theorem witness_StepRunsTheCommandInFlight :
    let s := command 7 3#32 4#32 0#32
    s.rst = false ∧ s.inflight = some 7#32 ∧ decode 7#32 = .ok .magsq ∧ s.latency ≤ 1 := by
  refine ⟨rfl, rfl, rfl, by decide⟩

theorem witness_HostMovesWhileNoCommitIsDue :
    (State.reset.rst = false ∧ State.reset.inflight = none) ∧
    (let s := hostedBusy (.rst false); s.rst = false ∧ s.inflight ≠ none ∧ 1 < s.latency) ∧
    { State.reset with rst := true }.rst = true := by
  refine ⟨⟨rfl, rfl⟩, ⟨rfl, by decide, by decide⟩, rfl⟩

theorem witness_SignFixupIsTwelveBitSigned :
    (0x7FF#12).toNat < 2048 ∧ 2048 ≤ (0x800#12).toNat ∧ signfix 0x7FF#12 = 2047 ∧ signfix 0x800#12 = -2048 := by decide

theorem witness_ThetaRowsAndRange :
    let rows : List (Int × Int) := [(0, 0), (1, 0), (1, 1), (0, 1), (-1, 1), (-1, 0), (-1, -1), (0, -1), (1, -1)]
    rows.map (fun p => (Int.sign p.1, Int.sign p.2)) = rows := by decide

/-- Section 2.6, row (3, 4) and row (1, -2^31): operands in two open quadrants. -/
theorem witness_AtanQIsFaithful :
    ((3 : Int) ≠ 0 ∧ (4 : Int) ≠ 0) ∧
    ∃ f : Int → Int → Int, AxisRows f ∧ ∀ x y, x ≠ 0 → y ≠ 0 → f x y = round (thetaCode x y) := by
  refine ⟨by decide, fun x y => if x = 0 ∨ y = 0 then (faithfulCode false x y : Int) else round (thetaCode x y), ?_, ?_⟩
  · refine ⟨by decide, fun x hx => ?_, fun y hy => ?_, fun x hx => ?_, fun y hy => ?_⟩
    · simp [faithfulCode, qZero, not_lt.mpr hx.le]
    · simp [faithfulCode, hy.ne', hy, qHalfPi]
    · simp [faithfulCode, hx, qPi]
    · simp [faithfulCode, hy.ne, not_lt.mpr hy.le, q3HalfPi]
  · intro x y hx hy
    simp [hx, hy]

theorem witness_BothFaithfulCodesAreOpen :
    (scaledTheta 3 4).lo.floorInt = (scaledTheta 3 4).hi.floorInt ∧
    (scaledTheta 3 4).lo.ceilInt = (scaledTheta 3 4).hi.ceilInt := by
  decide +kernel

theorem witness_EveryAngleIsBelowTwoPi :
    (IsInt32 2147483647 ∧ IsInt32 (-2147483648)) ∧
    (∃ t, exec .angle (command 6 5#32 0xFFFFFFFF#32 0#32) = .next t) ∧ (unpackRaw rawU1).InRange := by
  refine ⟨?_, ⟨_, rfl⟩, unpackRaw_inRange _⟩
  unfold IsInt32
  decide

theorem witness_PlanarAnglesAreThoseOfTheCodes :
    (0 : Int) < 98 ∧ (unpackRaw rawU1).InRange ∧ (unpackRaw rawU1).x ≠ 0 ∧ (unpackRaw rawU1).y ≠ 0 ∧
    (unpackRaw rawU1).z ≠ 0 := by
  refine ⟨by decide, unpackRaw_inRange _, by decide, by decide, by decide⟩

/-- U3's 0x0C beside 0x00: the two untested bits flipped. -/
theorem witness_OnlyTheTwoLowBitsDecideReadiness :
    0x0C#8 &&& 0xF3#8 = 0 ∧ ∃ t t', exec .update (updateOf RawBlock.reset) = .next t ∧
      exec .update (updateOf ⟨0#8, 0#8, 0#8, 0x0C#8, 0#8, 0#8, 0#8⟩) = .next t' := by
  refine ⟨by decide, _, _, rfl, rfl⟩

/-- Both branches: U1 and its not-ready form. -/
theorem witness_UpdateIsAllOrNothing :
    (let s := updateOf rawU1;
      s.cap.raw.raw3 &&& 0x03#8 = 0 ∧ ∃ t, exec .update s = .next t ∧ t.flag .ok = true) ∧
    (let s := updateOf { rawU1 with raw3 := 0x57#8 };
      s.cap.raw.raw3 &&& 0x03#8 ≠ 0 ∧ ∃ t, exec .update s = .next t ∧ t.flag .nrdy = true) := by
  refine ⟨⟨by decide, _, rfl, by decide⟩, ⟨by decide, _, rfl, by decide⟩⟩

theorem witness_UpdateIsDeterministicAndIdempotent :
    let s := updateOf rawU1
    let s' := { updateOf rawU1 with status := 0x1F#8 }
    s.cap.raw = s'.cap.raw ∧ s.cap.raw.raw3 &&& 0x03#8 = 0 ∧ (∃ t, exec .update s = .next t) ∧
    ∃ t', exec .update s' = .next t' := by
  refine ⟨rfl, by decide, ⟨_, rfl⟩, ⟨_, rfl⟩⟩

theorem witness_CommandFrame : ∃ t, exec .convf (command 4 0x7FF#32 0#32 0#32) = .next t := ⟨_, rfl⟩

theorem witness_OperandWritesDoNotDisturbTheCommand :
    0x02#6 ∈ operandIndices ∧ 0x0E#6 ∈ operandIndices ∧ (∃ t, exec .magsq (command 7 3#32 4#32 0#32) = .next t) ∧
    State.reset.flag .busy = false ∧ Legal 0x102#32 := by
  refine ⟨by decide, by decide, ⟨_, rfl⟩, by decide, ?_⟩
  unfold Legal
  decide

/-- Every index is CMD, STATUS, or falls under exactly one clause of HostWriteMap; the ends of each range among them. -/
theorem witness_HostWriteMap : ∀ idx : Index,
    (((decide (idx.toNat ≤ 1)).toNat + (decide (2 ≤ idx.toNat ∧ idx.toNat ≤ 4)).toNat +
      (decide (8 ≤ idx.toNat ∧ idx.toNat ≤ 0x0E)).toNat +
      (decide (idx = 0x05#6 ∨ idx = 0x06#6 ∨ (0x10 ≤ idx.toNat ∧ idx.toNat ≤ 0x1C) ∨ idx = 0x3F#6)).toNat) +
      (decide (idx = 0x07#6 ∨ idx = 0x0F#6 ∨ (0x1D ≤ idx.toNat ∧ idx.toNat ≤ 0x3E))).toNat) = 1 := by decide

/-- The ends of the reserved range and the lone reserved indices (20_memory.md R83). -/
theorem witness_HostReadMap : [0x07#6, 0x0F#6, 0x1D#6, 0x3E#6].all (fun idx => (regAt idx).isNone) = true ∧
    [0x06#6, 0x08#6, 0x0E#6, 0x10#6, 0x1C#6, 0x3F#6].all (fun idx => (regAt idx).isSome) = true := by decide

/-- A busy machine; an idle one with an illegal word; an idle one with a legal word. -/
theorem witness_CommandProtocol :
    (command 7 0#32 0#32 0#32).flag .busy = true ∧ State.reset.flag .busy = false ∧ ¬ Legal 0x101#32 ∧ Legal 0x102#32 := by
  refine ⟨by decide, by decide, ?_, ?_⟩ <;> unfold Legal <;> decide

theorem witness_StatusIsWriteOneToClear :
    { State.reset with status := 0x18#8 }.flag (causeFlag .ill) = true ∧
    { State.reset with status := 0x18#8 }.flag (causeFlag .ovr) = true := by decide

theorem witness_WritesChangeOnlyTheirRegister :
    0x3F#6 ≠ 0x00#6 ∧ 0x01#6 ≠ 0x3F#6 ∧ 0x04#6 ∈ [0x02#6, 0x03#6, 0x04#6] := by decide

/-- Idle and busy, for each kind of statement that the step statements speak of. -/
theorem witness_HostsTurn (st : HostStmt) :
    (HostsTurn (hosted st) ∧ NextStmt (hosted st) st) ∧ (HostsTurn (hostedBusy st) ∧ NextStmt (hostedBusy st) st) :=
  ⟨⟨⟨rfl, .inl rfl⟩, rfl⟩, ⟨⟨rfl, .inr (by show (1 : Nat) < 2; decide)⟩, rfl⟩⟩

theorem witness_ReadStepHasNoSideEffect :
    let st := HostStmt.access (.read 0x05#6)
    HostsTurn (hostedBusy st) ∧ NextStmt (hostedBusy st) st := (witness_HostsTurn _).2

theorem witness_WriteStepWrites :
    let st := HostStmt.access (.write 0x02#6 5#32)
    HostsTurn (hosted st) ∧ NextStmt (hosted st) st := (witness_HostsTurn _).1

/-- Taken while busy, not taken while idle. -/
theorem witness_HostBranches :
    let st := HostStmt.bnz 0x01#6 1#32 0
    (HostsTurn (hostedBusy st) ∧ NextStmt (hostedBusy st) st ∧ hostRead 0x01#6 (hostedBusy st) &&& 1#32 ≠ 0) ∧
    (HostsTurn (hosted st) ∧ NextStmt (hosted st) st ∧ hostRead 0x01#6 (hosted st) &&& 1#32 = 0) ∧
    (HostsTurn (hosted (.b 0)) ∧ NextStmt (hosted (.b 0)) (.b 0)) ∧
    (let st := HostStmt.bBusyo 0;
      (HostsTurn (hosted st) ∧ NextStmt (hosted st) st) ∧ (HostsTurn (hostedBusy st) ∧ NextStmt (hostedBusy st) st)) := by
  exact ⟨⟨(witness_HostsTurn _).2.1, rfl, by decide⟩, ⟨(witness_HostsTurn _).1.1, rfl, by decide⟩, (witness_HostsTurn _).1,
    witness_HostsTurn _⟩

/-- The last byte of the window, a half word at its start, and a word not on a slot. -/
theorem witness_BridgeAccesses :
    (255 < 256 ∧ ((1 : Nat) ≠ 4 ∨ 255 % 4 ≠ 0)) ∧ (0 < 256 ∧ ((2 : Nat) ≠ 4 ∨ 0 % 4 ≠ 0)) ∧
    (2 < 256 ∧ ((4 : Nat) ≠ 4 ∨ 2 % 4 ≠ 0)) ∧
    (let st := HostStmt.busWrite (Config.tlvBase + 2) 4 0#32; HostsTurn (hosted st) ∧ NextStmt (hosted st) st) ∧
    (let st := HostStmt.busRead (Config.tlvBase + 255) 1; HostsTurn (hosted st) ∧ NextStmt (hosted st) st) :=
  ⟨by decide, by decide, by decide, (witness_HostsTurn _).1, (witness_HostsTurn _).1⟩

theorem hosted_flag (st : HostStmt) (f : Flag) : (hosted st).flag f = false := getFlag_zero f

theorem hostedBusy_flag (st : HostStmt) (f : Flag) : (hostedBusy st).flag f = decide (f = .busy) := by
  have : (hostedBusy st).flag f = getFlag f (putFlag .busy true 0#8) := rfl
  rw [this]
  cases f <;> decide

/-- The invariant of an idle machine at reset but for its host. -/
theorem inv_hosted (st : HostStmt) : (hosted st).Inv where
  busy_iff := hosted_flag st _
  legal := fun _ h => nomatch h
  latency_pos := by show (false = true) ↔ (0 : Nat) < 0; decide
  ok_or_nrdy := fun _ => hosted_flag st _
  banks := .inl ⟨rfl, rfl⟩
  ok_reading := fun h => nomatch (hosted_flag st _).symm.trans h
  no_reading := fun _ _ => ⟨rfl, rfl⟩
  held := fun h => nomatch (show false = true from h)

/-- The invariant of a machine with UPDATE in flight. -/
theorem inv_hostedBusy (st : HostStmt) : (hostedBusy st).Inv where
  busy_iff := hostedBusy_flag st _
  legal := fun w h => ⟨.update, by
    obtain rfl : 8#32 = w := Option.some.inj h
    rfl⟩
  latency_pos := by show (true = true) ↔ (0 : Nat) < 2; decide
  ok_or_nrdy := fun _ => hostedBusy_flag st _
  banks := .inl ⟨rfl, rfl⟩
  ok_reading := fun h => nomatch (hostedBusy_flag st _).symm.trans h
  no_reading := fun _ _ => ⟨rfl, rfl⟩
  held := fun h => nomatch (show false = true from h)

/-- The state in which U1's reading has been committed. -/
def committedU1 : State := ((updateOf rawU1).writeReading (unpackRaw rawU1)).complete

/-- The invariant of a machine that holds a reading. -/
theorem inv_committedU1 : committedU1.Inv :=
  have one : committedU1.BanksOfOneUpdate := ⟨unpackRaw rawU1, unpackRaw_inRange _, rfl, rfl⟩
  { busy_iff := by decide
    legal := fun _ h => nomatch h
    latency_pos := by decide
    ok_or_nrdy := by decide
    banks := .inr one
    ok_reading := fun _ => one
    no_reading := fun h => absurd h (by decide)
    held := fun h => absurd h (by decide) }

/-- A poll loop on STATUS: taken once while UPDATE runs, then, after its commit, it finds BUSY = 0. -/
theorem witness_PollSeesTheCommit :
    let st := HostStmt.bnz 0x01#6 1#32 0
    let s := hostedBusy st
    s.Inv ∧ s.rst = false ∧ s.inflight = some (encode .update) ∧ (∀ st' ∈ s.host.program, Quiet st') ∧
    ∃ u v, core.run 2 s = .next u ∧ HostsTurn u ∧ NextStmt u st ∧ step u = .next v ∧ FindsIdle u v st := by
  refine ⟨inv_hostedBusy _, rfl, rfl, fun st h => ?_, _, _, rfl, ⟨by decide, .inl (by decide)⟩, by
    unfold NextStmt; decide, rfl, .inl ⟨.inr (.inl ⟨_, _, rfl⟩), 0xE2#32, by decide, by decide⟩⟩
  obtain rfl := List.mem_singleton.mp h
  exact ⟨trivial, by decide⟩

/-- The same loop on BUSYO (60_exceptions.md R239). -/
theorem witness_PollSeesTheCommit_busyo :
    let st := HostStmt.bBusyo 0
    let s := hostedBusy st
    s.Inv ∧ s.rst = false ∧ s.inflight = some (encode .update) ∧ (∀ st' ∈ s.host.program, Quiet st') ∧
    ∃ u v, core.run 2 s = .next u ∧ HostsTurn u ∧ NextStmt u st ∧ step u = .next v ∧ FindsIdle u v st := by
  refine ⟨inv_hostedBusy _, rfl, rfl, fun st h => ?_, _, _, rfl, ⟨by decide, .inl (by decide)⟩, by
    unfold NextStmt; decide, rfl, .inr ⟨⟨_, rfl⟩, by decide⟩⟩
  obtain rfl := List.mem_singleton.mp h
  exact ⟨trivial, by decide⟩

/-- The hypothesis of its last clause: no command in flight after the commit. -/
theorem witness_PollSeesTheCommit_later (k : Nat) (w : State) (hk : k ≤ 0) (h : core.run k committedU1 = .next w) :
    w.inflight = none := by
  obtain rfl : k = 0 := Nat.le_zero.mp hk
  obtain rfl := Host.Outcome.next.inj h
  rfl

theorem witness_CommandWriteEitherSideOfACommit :
    (command 7 3#32 4#32 0#32).flag .busy = true ∧ (∃ t, exec .magsq (command 7 3#32 4#32 0#32) = .next t) ∧
    Legal 0x006#32 := by
  refine ⟨by decide, ⟨_, rfl⟩, ?_⟩
  unfold Legal
  decide

theorem witness_ResultChangesOnlyAtItsCommits :
    let s := command 7 3#32 4#32 0#32
    ∃ t, step s = .next t ∧ t.rst = false ∧ s.rst = false ∧ t.r ≠ s.r := by
  exact ⟨_, rfl, by decide, by decide, by decide⟩

/-- W16 from reset: the temperature changes. -/
theorem witness_BanksChangeOnlyAtAReadyUpdate :
    let s := updateOf RawBlock.reset
    ∃ t, step s = .next t ∧ t.rst = false ∧ s.rst = false ∧ t.reading ≠ s.reading := by
  exact ⟨_, rfl, by decide, by decide, by decide⟩

theorem witness_OperandsChangeOnlyByHostWrites :
    let s := hosted (.access (.write 0x02#6 5#32))
    ∃ t, step s = .next t ∧ t.rst = false ∧ s.rst = false ∧ t.a ≠ s.a := by
  exact ⟨_, rfl, by decide, by decide, by decide⟩

theorem witness_ResultsChangeOnlyAtCommit :
    let s := hostedBusy (.access (.write 0x02#6 5#32))
    HostsTurn s ∧ ∃ t, step s = .next t ∧ t.rst = false := by
  exact ⟨(witness_HostsTurn _).2.1, _, rfl, by decide⟩

/-- An error cleared, ILL raised, OVR raised. -/
theorem witness_ErrorsAreSticky :
    (let s := { hosted (.access (.write 0x01#6 0x18#32)) with status := 0x18#8 }
      ∃ t, step s = .next t ∧ s.rst = false ∧ t.rst = false ∧ s.flag (causeFlag .ill) = true ∧
        t.flag (causeFlag .ill) = false) ∧
    (let s := hosted (.access (.write 0x00#6 9#32))
      ∃ t, step s = .next t ∧ s.flag (causeFlag .ill) = false ∧ t.flag (causeFlag .ill) = true) ∧
    (let s := hostedBusy (.access (.write 0x00#6 9#32))
      ∃ t, step s = .next t ∧ s.flag (causeFlag .ovr) = false ∧ t.flag (causeFlag .ovr) = true) := by
  exact ⟨⟨_, rfl, by decide, by decide, by decide, by decide⟩, ⟨_, rfl, by decide, by decide⟩,
    ⟨_, rfl, by decide, by decide⟩⟩

/-- RST raised with and without a command in flight. -/
theorem witness_ResetAbandonsTheCommand :
    (HostsTurn (hostedBusy (.rst true)) ∧ NextStmt (hostedBusy (.rst true)) (.rst true)) ∧
    (HostsTurn (hosted (.rst true)) ∧ NextStmt (hosted (.rst true)) (.rst true)) :=
  ⟨(witness_HostsTurn _).2, (witness_HostsTurn _).1⟩

theorem witness_AccessesAreIgnoredDuringReset (st : HostStmt) :
    let s := { hosted st with rst := true }
    s.rst = true ∧ NextStmt s st := ⟨rfl, rfl⟩

theorem witness_EveryStepKeepsTheInvariant :
    committedU1.Inv ∧ ∃ t, step committedU1 = .next t := ⟨inv_committedU1, _, rfl⟩

theorem witness_TheBlockNeverStops :
    let s := hostedBusy (.busRead (Config.tlvBase + 252) 4)
    s.Inv ∧ s.HostServed := by
  refine ⟨inv_hostedBusy _, fun st h => ?_⟩
  obtain rfl := Option.some.inj h
  exact test_wf_bus_last_slot

theorem witness_AcceptedCommandCommitsInTime :
    let s := hostedBusy (.access (.write 0x02#6 5#32))
    s.Inv ∧ s.rst = false ∧ s.inflight = some (encode .update) ∧ ∀ st ∈ s.host.program, Quiet st := by
  refine ⟨inv_hostedBusy _, rfl, rfl, fun st h => ?_⟩
  obtain rfl := List.mem_singleton.mp h
  exact ⟨trivial, by decide⟩

theorem witness_BankRanges : committedU1.Inv ∧ committedU1.reading.bY.toInt = -19698 := ⟨inv_committedU1, by decide⟩

theorem witness_ReadingMatchesTheCodes :
    (committedU1.Inv ∧ committedU1.flag .ok = true) ∧
    (let s := hosted (.rst false); s.Inv ∧ s.flag .ok = false ∧ s.flag .nrdy = false) :=
  ⟨⟨inv_committedU1, by decide⟩, inv_hosted _, by decide, by decide⟩

end Sys2Proof.Tests
end

section
/-! PROOFS. A decoded word is the encoding of its command (30_encoding.md R112), and a legal word decodes (R113). -/

namespace Sys2Proof

open Sys2Proof.Statements

/-- A word whose three fields are those of a command's row is that command's word. -/
theorem eq_encode_of_fields {w : Word} {i : Instr} (hr : rsvField w = 0#23) (ho : (opField w).toNat = (opOf i).toNat)
    (hn : (nselField w).toNat = (nselOf i).toNat) : w = encode i := by
  apply BitVec.eq_of_toNat_eq
  rw [word_fields w, hr, ho, hn]
  cases i <;> rfl

/-- Decoding drops no bit of the word. -/
theorem eq_encode_of_decode {w : Word} {i : Instr} (h : decode w = .ok i) : w = encode i := by
  unfold decode at h
  split_ifs at h with hr
  have hr := not_not.mp hr
  split at h
  case h_11 => split_ifs at h
  all_goals
    rename_i ho hn
    cases h
    exact eq_encode_of_fields hr ho (congrArg Bool.toNat hn)

/-- A word that meets R113's three conditions is a command. -/
theorem decode_of_legal {w : Word} (h : Legal w) : ∃ i, decode w = .ok i := by
  obtain ⟨hr, ho, hn⟩ := h
  change rsvField w = 0#23 at hr
  change (opField w).toNat ≤ 8 at ho
  change nselField w = false ∨ (opField w).toNat = 2 at hn
  unfold decode
  rw [if_neg (not_not.mpr hr)]
  generalize (opField w).toNat = op at ho hn
  obtain hn | rfl := hn
  · rw [hn]
    interval_cases op <;> exact ⟨_, rfl⟩
  · cases nselField w <;> exact ⟨_, rfl⟩

end Sys2Proof
end

section
/-! PROOFS. The machine's step inverted once more, for statements about single fields: a commit, a write of the host, a
move of the host that leaves the block, or reset. -/

namespace Sys2Proof.Machine

open Sys2Proof.Statements

/-- `s` as the host finds it when RST is 0 and no commit is due: the latency counter has run down by one if a command is in
flight (log 2). -/
inductive HostFrom (s : State) : State → Prop where
  | idle (run : s.rst = false) (empty : s.inflight = none) : HostFrom s s
  | busy (run : s.rst = false) (w : Word) (inFlight : s.inflight = some w) (early : 1 < s.latency) : HostFrom s s.tick

theorem HostFrom.turn {s u : State} (h : HostFrom s u) : HostsTurn s := by
  cases h with
  | idle run empty => exact ⟨run, .inl empty⟩
  | busy run w inFlight early => exact ⟨run, .inr early⟩

theorem HostFrom.run {s u : State} (h : HostFrom s u) : u.rst = false := by
  cases h with
  | idle run => exact run
  | busy run => exact run

/-- The host finds everything but the latency counter as it was. -/
theorem HostFrom.eq_latency {s u : State} (h : HostFrom s u) : ∃ n, u = { s with latency := n } := by
  cases h with
  | idle => exact ⟨s.latency, rfl⟩
  | busy => exact ⟨s.latency - 1, rfl⟩

@[simp] theorem latency_flag (s : State) (n : Nat) (f : Flag) : ({ s with latency := n } : State).flag f = s.flag f := rfl

/-- The block at reset, with HRDATA, the host's position and the level of RST as a step leaves them. -/
def State.atReset (s : State) (d : Option Word) (p : Nat) (level : Bool) : State :=
  { (s.resetBlock.setHrdata d).hostAt p with rst := level }

@[simp] theorem State.atReset_flag (s : State) (d : Option Word) (p : Nat) (level : Bool) (f : Flag) :
    (s.atReset d p level).flag f = false := s.resetBlock_flag f

/-- What one step can leave. -/
inductive StepCase (s t : State) : Prop where
  /-- The commit of the command in flight (10_state.md R47). -/
  | commit (i : Instr) (due : CommitsAt s i) (run : exec i s = .next t)
  /-- A write of the host, direct or through the bridge (20_memory.md R81, R84). -/
  | write (u : State) (source : HostFrom s u) (idx : Index) (v : Word) (st : HostStmt) (stmt : NextStmt s st)
      (writes : WritesAt idx v st) (eq : t = ((hostWrite idx v u).setHrdata none).hostNext)
  /-- A read, a branch, an idle step, or RST driven low while it is low: nothing of the block changes. -/
  | quiet (u : State) (source : HostFrom s u) (d : Option Word) (p : Nat) (eq : t = (u.setHrdata d).hostAt p)
  /-- A step under RST, or the one that raises it (70_reset_and_hazards.md R260, R261). -/
  | reset (d : Option Word) (p : Nat) (level : Bool) (high : s.rst = true ∨ level = true) (eq : t = s.atReset d p level)

/-- The host's step while the block runs. -/
theorem StepCase.ofHost {s u t : State} (source : HostFrom s u) (h : hostStep u = .next t) : StepCase s t := by
  obtain ⟨n, hu⟩ := source.eq_latency
  have hrst := source.run
  have hhost : u.host = s.host := by rw [hu]
  obtain ⟨idx, v, st, hst, hw, rfl⟩ | ⟨d, p, rfl⟩ | ⟨level, hst, rfl⟩ := hostStep_next h
  · rw [stepWrite, portWrite_run idx v hrst]
    exact .write u source idx v st (by rwa [NextStmt, ← hhost]) hw rfl
  · exact .quiet u source d p rfl
  · cases level with
    | true =>
      refine .reset none (s.host.position + 1) true (.inr rfl) ?_
      rw [stepRst_true, hu]
      rfl
    | false =>
      refine .quiet u source none (u.host.position + 1) ?_
      rw [stepRst_false, ← hrst]
      rfl

/-- The host's step while the block is held at reset. -/
theorem StepCase.ofReset {s t : State} (hs : s.rst = true) (h : hostStep s.resetBlock = .next t) : StepCase s t := by
  have hrst : s.resetBlock.rst = true := hs
  obtain ⟨idx, v, st, -, -, rfl⟩ | ⟨d, p, rfl⟩ | ⟨level, -, rfl⟩ := hostStep_next h
  · rw [stepWrite, portWrite_reset idx v hrst]
    exact .reset none (s.host.position + 1) s.rst (.inl hs) rfl
  · exact .reset d p s.rst (.inl hs) rfl
  · refine .reset none (s.host.position + 1) level (.inl hs) ?_
    cases level <;> rfl

/-- Every step is one of the four cases. -/
theorem step_cases {s t : State} (h : step s = .next t) : StepCase s t := by
  obtain ⟨hr, h⟩ | ⟨hr, hi, h⟩ | ⟨hr, ⟨w, hi⟩, hl, h⟩ | ⟨hr, w, i, hi, hl, hd, h⟩ := step_next h
  · exact .ofReset hr h
  · exact .ofHost (.idle hr hi) h
  · exact .ofHost (.busy hr w hi hl) h
  · exact .commit i ⟨hr, eq_encode_of_decode hd ▸ hi, hl⟩ h

/-- A commit is never due in the host's turn. -/
theorem not_hostsTurn_of_commitsAt {s : State} {i : Instr} (h : CommitsAt s i) : ¬ HostsTurn s := by
  obtain ⟨-, hi, hl⟩ := h
  rintro ⟨-, hn | hlt⟩
  · exact Option.some_ne_none _ (hi.symm.trans hn)
  · exact absurd hl (Nat.not_le.mpr hlt)

/-- With RST low before and after, the block is not put at reset. -/
theorem atReset_absurd {s : State} {d : Option Word} {p : Nat} {level : Bool} (high : s.rst = true ∨ level = true)
    (hs : s.rst = false) (ht : (s.atReset d p level).rst = false) : False := by
  have hl : level = false := ht
  simp [hs, hl] at high

/-- A statement that writes is one of two forms. -/
theorem WritesAt.stmt {idx : Index} {v : Word} {s : State} {st : HostStmt} (h : WritesAt idx v st) (hs : NextStmt s st) :
    NextStmt s (.access (.write idx v)) ∨ NextStmt s (.busWrite (Config.tlvBase + 4 * idx.toNat) 4 v) := by
  cases h with
  | access => exact .inl hs
  | bridge => exact .inr hs

end Sys2Proof.Machine
end

section
/-! PROOFS. What each command leaves unchanged (10_state.md), and the obligations on commits. -/

namespace Sys2Proof.Machine

open Sys2Proof.Statements

variable {s t : State}

/-- Only ANGLE and UPDATE write DEG0, DEG1 and DEG2 (10_state.md R43). -/
theorem exec_keeps_deg {i : Instr} {f : Flag} (h : exec i s = .next t) (hu : i ≠ .update) (ha : i ≠ .angle)
    (hf : f ∈ [Flag.deg0, Flag.deg1, Flag.deg2]) : t.flag f = s.flag f := by
  have hb : f ≠ .busy := by rintro rfl; exact absurd hf (by decide)
  cases i
  case update => exact absurd rfl hu
  case angle => exact absurd rfl ha
  all_goals (cases h; simp [hb])

/-- The commands that do not write R are NOP and UPDATE (10_state.md R33). -/
theorem nop_or_update_of_not_writesR {i : Instr} (h : i ∉ writesR) : i = .nop ∨ i = .update := by
  revert h
  cases i <;> decide

/-- A command that changes a bank is an UPDATE of a ready block (44_update_control.md R213). -/
theorem exec_changes_banks {i : Instr} (h : exec i s = .next t) (hne : t.codes ≠ s.codes ∨ t.reading ≠ s.reading) :
    i = .update ∧ notReady s.cap.raw = false := by
  have hi : i = .update := by
    by_contra hi
    obtain ⟨hc, hr, -⟩ := exec_keeps_banks h hi
    exact hne.elim (· hc) (· hr)
  subst hi
  refine ⟨rfl, Bool.eq_false_iff.mpr fun hn => ?_⟩
  rw [exec_update_notReady s hn] at h
  cases h
  simp at hne

/-- The validity check of 44_update_control.md R211 passes when RAW3[1:0] is 0. -/
theorem notReady_eq_false_iff (raw : RawBlock) : notReady raw = false ↔ raw.raw3 &&& 0x03#8 = 0 := by
  simp [notReady, Config.statusMask]

/-- What a ready UPDATE writes (44_update_control.md R212). -/
theorem exec_update_ready_writes (h : exec .update s = .next t) (hr : notReady s.cap.raw = false) :
    t.codes = codeBankOf (unpackRaw s.cap.raw) ∧ t.reading = readingOf (unpackRaw s.cap.raw) ∧
    t.flag .ok = true ∧ t.flag .nrdy = false := by
  rw [exec_update_ready s hr] at h
  cases h
  simp

/-- Settles O31, from the frame of every command and the lemmas on the banks, R and DEG. -/
theorem commandFrame : Obligations.CommandFrame := by
  intro i s t h
  have hf := exec_commitFrame h
  exact ⟨hf.inflight, hf.busy, hf.a, hf.b, hf.c, hf.raw, hf.cap, hf.ill, hf.ovr, hf.rst, hf.hrdata, hf.host,
    hf.acceptCount, exec_keeps_banks h, fun hw => exec_keeps_r h (nop_or_update_of_not_writesR hw),
    fun hu ha f hd => exec_keeps_deg h hu ha hd⟩

/-- Settles O5: the commit step is exec of the decoded word. -/
theorem stepRunsTheCommandInFlight : Obligations.StepRunsTheCommandInFlight := by
  intro s w i hr hi hd hl
  rw [step_commit hr hi hl, commitStep, hd]

end Sys2Proof.Machine
end

section
/-! PROOFS. What only certain steps do: each statement by the four cases of a step. -/

namespace Sys2Proof.Machine

open Sys2Proof.Statements

variable {s t : State} {idx : Index} {v : Word} {k : Cause}

/-- R, both banks and every flag but BUSY, ILL and OVR are kept (10_state.md R47). -/
structure KeepsResults (s t : State) : Prop where
  r : t.r = s.r
  codes : t.codes = s.codes
  reading : t.reading = s.reading
  flags : ∀ f, f ≠ .busy → f ≠ .ill → f ≠ .ovr → t.flag f = s.flag f

/-- With RST low throughout, a step is a commit or keeps every result. -/
theorem step_commits_or_keepsResults (h : step s = .next t) (hs : s.rst = false) (ht : t.rst = false) :
    (∃ i, CommitsAt s i ∧ exec i s = .next t) ∨ KeepsResults s t := by
  cases step_cases h with
  | commit i due run => exact .inl ⟨i, due, run⟩
  | write u source idx v st stmt writes eq =>
    obtain ⟨n, rfl⟩ := source.eq_latency
    obtain ⟨hr, hc, hb, -, -, -, hf⟩ := hostWrite_frame idx v { s with latency := n }
    subst eq
    exact .inr ⟨hr, hc, hb, hf⟩
  | quiet u source d p eq =>
    obtain ⟨n, rfl⟩ := source.eq_latency
    subst eq
    exact .inr ⟨rfl, rfl, rfl, fun _ _ _ _ => rfl⟩
  | reset d p level high eq => subst eq; exact (atReset_absurd high hs ht).elim

/-- Settles O45: only a commit changes R, and only that of a command that writes it. -/
theorem resultChangesOnlyAtItsCommits : Obligations.ResultChangesOnlyAtItsCommits := by
  intro s t h ht hs hne
  obtain ⟨i, due, run⟩ | hk := step_commits_or_keepsResults h hs ht
  · refine ⟨i, ?_, due, run⟩
    by_contra hi
    exact hne (exec_keeps_r run (nop_or_update_of_not_writesR hi))
  · exact absurd hk.r hne

/-- Settles O46: only a commit changes the banks, and only that of a ready UPDATE. -/
theorem banksChangeOnlyAtAReadyUpdate : Obligations.BanksChangeOnlyAtAReadyUpdate := by
  intro s t h ht hs hne
  obtain ⟨i, due, run⟩ | hk := step_commits_or_keepsResults h hs ht
  · obtain ⟨rfl, hr⟩ := exec_changes_banks run hne
    exact ⟨due, (notReady_eq_false_iff _).mp hr, exec_update_ready_writes run hr⟩
  · exact (hne.elim (· hk.codes) (· hk.reading)).elim

/-- Settles O48: in the host's turn no commit is due, so every result is kept. -/
theorem resultsChangeOnlyAtCommit : Obligations.ResultsChangeOnlyAtCommit := by
  intro s t turn h ht
  obtain ⟨i, due, -⟩ | hk := step_commits_or_keepsResults h turn.1 ht
  · exact absurd turn (not_hostsTurn_of_commitsAt due)
  · refine ⟨hk.r, hk.codes, hk.reading, fun f hf => ?_⟩
    apply hk.flags <;> (rintro rfl; exact absurd hf (by decide))

/-- A write at any other index leaves the operand registers (20_memory.md R81). -/
theorem hostWrite_keeps_operands (hidx : idx ∉ operandIndices) (v : Word) (s : State) :
    (hostWrite idx v s).a = s.a ∧ (hostWrite idx v s).b = s.b ∧ (hostWrite idx v s).c = s.c ∧
    (hostWrite idx v s).raw = s.raw := by
  obtain h | ⟨r, rfl, h⟩ := hostWrite_cases idx v s <;> rw [h]
  · exact ⟨rfl, rfl, rfl, rfl⟩
  · cases r
    case cmd => obtain ⟨-, h⟩ | ⟨-, -, h⟩ | ⟨-, -, h⟩ := writeCmd_cases v s <;> simp [writeReg, h]
    case a | b | c | raw0 | raw1 | raw2 | raw3 | raw4 | raw5 | raw6 => exact absurd (by decide) hidx
    all_goals exact ⟨rfl, rfl, rfl, rfl⟩

/-- Settles O47: neither a commit nor any other step of the host touches the operand registers. -/
theorem operandsChangeOnlyByHostWrites : Obligations.OperandsChangeOnlyByHostWrites := by
  intro s t h ht hs hne
  cases step_cases h with
  | commit i due run =>
    have hf := exec_commitFrame run
    simp [hf.a, hf.b, hf.c, hf.raw] at hne
  | write u source idx v st stmt writes eq =>
    refine ⟨source.turn, idx, v, ?_, writes.stmt stmt⟩
    by_contra hidx
    obtain ⟨n, rfl⟩ := source.eq_latency
    obtain ⟨ha, hb, hc, hraw⟩ := hostWrite_keeps_operands hidx v { s with latency := n }
    subst eq
    simp [ha, hb, hc, hraw] at hne
  | quiet u source d p eq =>
    obtain ⟨n, rfl⟩ := source.eq_latency
    subst eq
    simp at hne
  | reset d p level high eq => subst eq; exact (atReset_absurd high hs ht).elim

/-- The flag of a cause is none that a commit or an acceptance writes. -/
theorem causeFlag_ne_busy (k : Cause) : causeFlag k ≠ .busy := by cases k <;> decide

/-- A commit keeps ILL and OVR. -/
theorem CommitFrame.keeps_error (h : CommitFrame s t) (k : Cause) : t.flag (causeFlag k) = s.flag (causeFlag k) := by
  cases k with
  | ill => exact h.ill
  | ovr => exact h.ovr

/-- Writing `v` at `idx` while BUSY is `busy` changes the flag of a cause to a level: 60_exceptions.md R231 and R232 set one,
10_state.md R43 clears one. -/
inductive ErrorWrite : (busy : Bool) → Cause → Index → Word → (level : Bool) → Prop where
  | ill {w : Word} (illegal : ¬ Legal w) : ErrorWrite false .ill 0x00#6 w true
  | ovr {w : Word} : ErrorWrite true .ovr 0x00#6 w true
  | clear {busy : Bool} {k : Cause} {v : Word} (bit : v.getLsbD (flagBit (causeFlag k)) = true) :
    ErrorWrite busy k 0x01#6 v false

theorem ErrorWrite.of_set {busy : Bool} (h : ErrorWrite busy k idx v true) :
    idx = 0x00#6 ∧ (k = .ill → busy = false ∧ ¬ Legal v) ∧ (k = .ovr → busy = true) := by
  cases h with
  | ill illegal => exact ⟨rfl, fun _ => ⟨rfl, illegal⟩, nofun⟩
  | ovr => exact ⟨rfl, nofun, fun _ => rfl⟩

theorem ErrorWrite.of_clear {busy : Bool} (h : ErrorWrite busy k idx v false) :
    idx = 0x01#6 ∧ v.getLsbD (flagBit (causeFlag k)) = true := by
  cases h with
  | clear bit => exact ⟨rfl, bit⟩

theorem writeCmd_causeFlag (w : Word) (s : State) (k : Cause) :
    (writeCmd w s).flag (causeFlag k) = s.flag (causeFlag k) ∨
    ErrorWrite (s.flag .busy) k 0x00#6 w ((writeCmd w s).flag (causeFlag k)) := by
  obtain ⟨hb, h⟩ | ⟨hb, hd, h⟩ | ⟨-, -, h⟩ := writeCmd_cases w s <;> rw [h]
  · cases k with
    | ill => left; simp [causeFlag]
    | ovr => right; simpa [causeFlag, hb] using ErrorWrite.ovr
  · cases k with
    | ill =>
      have illegal : ¬ Legal w := fun hl => by
        obtain ⟨i, hi⟩ := decode_of_legal hl
        exact hd i hi
      right; simpa [causeFlag, hb] using ErrorWrite.ill illegal
    | ovr => left; simp [causeFlag]
  · left; simp [causeFlag_ne_busy]

theorem clearErrors_causeFlag (v : Word) (s : State) (k : Cause) :
    (s.clearErrors v).flag (causeFlag k) = (s.flag (causeFlag k) && !v.getLsbD (flagBit (causeFlag k))) := by
  cases k <;> simp [causeFlag, flagBit]

/-- A host write keeps ILL and OVR but by a write to CMD or STATUS. -/
theorem hostWrite_causeFlag (idx : Index) (v : Word) (s : State) (k : Cause) :
    (hostWrite idx v s).flag (causeFlag k) = s.flag (causeFlag k) ∨
    ErrorWrite (s.flag .busy) k idx v ((hostWrite idx v s).flag (causeFlag k)) := by
  obtain h | ⟨r, rfl, h⟩ := hostWrite_cases idx v s <;> rw [h]
  · exact .inl rfl
  · cases r
    case cmd => exact writeCmd_causeFlag v s k
    case status =>
      rw [writeReg, clearErrors_causeFlag]
      cases hv : v.getLsbD (flagBit (causeFlag k)) with
      | true => right; simpa [regIndex] using ErrorWrite.clear hv
      | false => left; simp
    all_goals exact .inl rfl

/-- A step that changes ILL or OVR is a reset or a write to CMD or STATUS. -/
theorem step_causeFlag (h : step s = .next t) (hne : t.flag (causeFlag k) ≠ s.flag (causeFlag k)) :
    (∃ d p level, (s.rst = true ∨ level = true) ∧ t = s.atReset d p level) ∨
    (HostsTurn s ∧ ∃ idx v st, NextStmt s st ∧ WritesAt idx v st ∧
      ErrorWrite (s.flag .busy) k idx v (t.flag (causeFlag k))) := by
  cases step_cases h with
  | commit i due run => exact absurd ((exec_commitFrame run).keeps_error k) hne
  | write u source idx v st stmt writes eq =>
    obtain ⟨n, rfl⟩ := source.eq_latency
    subst eq
    exact .inr ⟨source.turn, idx, v, st, stmt, writes,
      (hostWrite_causeFlag idx v { s with latency := n } k).resolve_left hne⟩
  | quiet u source d p eq =>
    obtain ⟨n, rfl⟩ := source.eq_latency
    subst eq
    exact absurd rfl hne
  | reset d p level high eq => exact .inl ⟨d, p, level, high, eq⟩

/-- Settles O49: by the writes that change ILL and OVR; a reset, which sets neither, needs RST high. -/
theorem errorsAreSticky : Obligations.ErrorsAreSticky := by
  constructor
  · intro s t k h hs ht h1 h0
    obtain ⟨d, p, level, high, rfl⟩ | ⟨turn, idx, v, st, hst, hw, he⟩ := step_causeFlag (k := k) h (by simp [h0, h1])
    · exact (atReset_absurd high hs ht).elim
    · rw [h0] at he
      obtain ⟨rfl, hv⟩ := he.of_clear
      exact ⟨turn, v, hv, hw.stmt hst⟩
  · intro s t k h h0 h1
    obtain ⟨d, p, level, -, rfl⟩ | ⟨turn, idx, v, st, hst, hw, he⟩ := step_causeFlag (k := k) h (by simp [h0, h1])
    · simp at h1
    · rw [h1] at he
      obtain ⟨rfl, hk⟩ := he.of_set
      exact ⟨turn, v, hw.stmt hst, hk⟩

end Sys2Proof.Machine
end

section
/-! PROOFS. The invariant is kept by each of the four cases of a step. -/

namespace Sys2Proof.Machine

variable {s t u : State}

/-- RST low and the banks, OK and NRDY kept: only the command's own clauses are left to show. -/
theorem State.Inv.of_same_banks (h : s.Inv) (hcodes : t.codes = s.codes) (hreading : t.reading = s.reading)
    (hok : t.flag .ok = s.flag .ok) (hnrdy : t.flag .nrdy = s.flag .nrdy) (hrst : t.rst = false)
    (busy_iff : t.flag .busy = t.inflight.isSome) (legal : ∀ w, t.inflight = some w → ∃ i, decode w = .ok i)
    (latency_pos : t.inflight.isSome = true ↔ 0 < t.latency) : t.Inv where
  busy_iff := busy_iff
  legal := legal
  latency_pos := latency_pos
  ok_or_nrdy := by simpa only [hok, hnrdy] using h.ok_or_nrdy
  banks := by simpa only [State.BanksAtReset, State.BanksOfOneUpdate, hcodes, hreading] using h.banks
  ok_reading := by simpa only [State.BanksOfOneUpdate, hcodes, hreading, hok] using h.ok_reading
  no_reading := by simpa only [State.BanksAtReset, hcodes, hreading, hok, hnrdy] using h.no_reading
  held hr := by simp [hrst] at hr

/-- Only the latency counter differs in what the host finds, and it has not run out. -/
theorem State.Inv.of_hostFrom (h : s.Inv) (source : HostFrom s u) : u.Inv := by
  cases source with
  | idle => exact h
  | busy run w inFlight early =>
    refine h.of_same_banks rfl rfl rfl rfl run h.busy_iff h.legal ?_
    simp [inFlight]
    omega

theorem State.Inv.after_accept {w : Word} (h : s.Inv) (hr : s.rst = false) (hd : ∃ i, decode w = .ok i) : (s.accept w).Inv :=
  h.of_same_banks rfl rfl (by simp) (by simp) hr (by simp) (by simpa using hd) (by simp [Config.latency])

/-- 60_exceptions.md R230: of the three outcomes only acceptance touches the command. -/
theorem State.Inv.after_writeCmd (h : s.Inv) (hr : s.rst = false) (w : Word) : (writeCmd w s).Inv := by
  have hraise (k : Cause) : (s.raise k).Inv := by
    refine h.of_same_banks rfl rfl ?_ ?_ hr ?_ h.legal h.latency_pos
    · cases k <;> simp [causeFlag]
    · cases k <;> simp [causeFlag]
    · simpa [(causeFlag_ne_busy k).symm] using h.busy_iff
  obtain ⟨-, h'⟩ | ⟨-, -, h'⟩ | ⟨-, hd, h'⟩ := writeCmd_cases w s <;> rw [h']
  · exact hraise .ovr
  · exact hraise .ill
  · exact h.after_accept hr hd

theorem State.Inv.after_hostWrite (h : s.Inv) (hr : s.rst = false) (idx : Index) (v : Word) : (hostWrite idx v s).Inv := by
  obtain h' | ⟨r, -, h'⟩ := hostWrite_cases idx v s <;> rw [h']
  · exact h
  · by_cases hcmd : r = .cmd
    · subst hcmd
      exact h.after_writeCmd hr v
    · obtain ⟨hi, hl, -, -, hb⟩ := writeReg_command r v s hcmd
      obtain ⟨-, hc, hb', hrst, -, -, hf⟩ := writeReg_frame r v s
      refine h.of_same_banks hc hb' (hf _ nofun nofun nofun) (hf _ nofun nofun nofun) (hrst.trans hr) ?_ ?_ ?_
      · rw [hb, hi, h.busy_iff]
      · rw [hi]; exact h.legal
      · rw [hi, hl]; exact h.latency_pos

/-- HRDATA and the host are no part of the invariant. -/
theorem State.Inv.after_port (h : s.Inv) (hr : s.rst = false) (d : Option Word) (p : Nat) : ((s.setHrdata d).hostAt p).Inv :=
  h.of_same_banks rfl rfl rfl rfl hr h.busy_iff h.legal h.latency_pos

theorem atReset_inv (s : State) (d : Option Word) (p : Nat) (level : Bool) : (s.atReset d p level).Inv where
  busy_iff := s.atReset_flag d p level .busy
  legal := nofun
  latency_pos := by simp [State.atReset]
  ok_or_nrdy _ := s.atReset_flag d p level .nrdy
  banks := .inl ⟨rfl, rfl⟩
  ok_reading hok := by simp at hok
  no_reading _ _ := ⟨rfl, rfl⟩
  held _ := rfl

/-- After a ready UPDATE the banks are those of the captured block; after one that is not ready, NRDY alone says so. -/
theorem State.Inv.after_update (h : s.Inv) (hr : s.rst = false) (run : exec .update s = .next t) : t.Inv := by
  have hf := exec_commitFrame run
  have busy_iff : t.flag .busy = t.inflight.isSome := by simp [hf.busy, hf.inflight]
  have legal : ∀ w, t.inflight = some w → ∃ i, decode w = .ok i := by simp [hf.inflight]
  have latency_pos : t.inflight.isSome = true ↔ 0 < t.latency := by simp [hf.inflight, hf.latency]
  have held : t.rst = true → t.resetBlock = t := by simp [hf.rst, hr]
  cases hn : notReady s.cap.raw with
  | true =>
    rw [exec_update_notReady s hn] at run
    cases run
    exact ⟨busy_iff, legal, latency_pos, by simp, h.banks, by simp, by simp, held⟩
  | false =>
    obtain ⟨hc, hb, hok, hnrdy⟩ := exec_update_ready_writes run hn
    have hbanks : t.BanksOfOneUpdate := ⟨_, unpackRaw_inRange s.cap.raw, hc, hb⟩
    exact ⟨busy_iff, legal, latency_pos, fun _ => hnrdy, .inr hbanks, fun _ => hbanks, by simp [hok], held⟩

theorem State.Inv.after_commit {i : Instr} (h : s.Inv) (hr : s.rst = false) (run : exec i s = .next t) : t.Inv := by
  by_cases hi : i = .update
  · subst hi
    exact h.after_update hr run
  · have hf := exec_commitFrame run
    obtain ⟨hc, hb, hok, hnrdy⟩ := exec_keeps_banks run hi
    exact h.of_same_banks hc hb hok hnrdy (hf.rst.trans hr) (by simp [hf.busy, hf.inflight]) (by simp [hf.inflight])
      (by simp [hf.inflight, hf.latency])

/-- Settles O54: each of the four cases of a step keeps the invariant. -/
theorem everyStepKeepsTheInvariant : Obligations.EveryStepKeepsTheInvariant := by
  intro s t hs h
  cases step_cases h with
  | commit i due run => exact hs.after_commit due.1 run
  | write u source idx v st stmt writes eq =>
    subst eq
    have hu := source.run
    exact ((hs.of_hostFrom source).after_hostWrite hu idx v).after_port ((hostWrite_frame idx v u).rst.trans hu) _ _
  | quiet u source d p eq =>
    subst eq
    exact (hs.of_hostFrom source).after_port source.run d p
  | reset d p level high eq =>
    subst eq
    exact atReset_inv s d p level

end Sys2Proof.Machine
end

section
/-! PROOFS. The ranges of the two banks (10_state.md R36 to R39, R41). -/

namespace Sys2Proof.Machine

/-! ### Codes, fields, temperature, M2 -/

theorem sext32_toInt {v : Int} (hlo : -2 ^ 31 ≤ v) (hhi : v < 2 ^ 31) : (sext32 v).toInt = v :=
  BitVec.toInt_ofInt_eq_self (by decide) hlo hhi

/-- A signed code of 12 bits fills bits 31 to 11 with its sign (10_state.md R36). -/
theorem getLsbD_of_code {x : Word} (hlo : -2048 ≤ x.toInt) (hhi : x.toInt ≤ 2047) {k : Nat} (h11 : 11 ≤ k) (h32 : k < 32) :
    x.getLsbD k = x.getLsbD 31 := by
  have hshift : x.sshiftRight 11 = x.sshiftRight 31 := by
    apply BitVec.eq_of_toInt_eq
    rw [BitVec.toInt_sshiftRight, BitVec.toInt_sshiftRight, Int.shiftRight_eq_div_pow, Int.shiftRight_eq_div_pow]
    omega
  have hbit := congrArg (BitVec.getLsbD · (k - 11)) hshift
  have hmsb : x.msb = x.getLsbD 31 := x.msb_eq_getLsbD_last
  simp only [BitVec.getLsbD_sshiftRight, Nat.add_sub_cancel' h11, if_pos h32, hmsb] at hbit
  have hk : ¬ 32 ≤ k - 11 := by omega
  simp only [hk, decide_false, Bool.not_false, Bool.true_and] at hbit
  split_ifs at hbit with h31
  · rwa [show 31 + (k - 11) = 31 by omega] at hbit
  · exact hbit

/-- A code in range is what `sext_32` stores. -/
theorem sext32_code_range {v : Int} (h : -2048 ≤ v ∧ v ≤ 2047) :
    -2048 ≤ (sext32 v).toInt ∧ (sext32 v).toInt ≤ 2047 := by
  rwa [sext32_toInt (by omega) (by omega)]

/-- 41_scale.md R160: the field of a code in range. -/
theorem toField_range {c : Int} (h : -2048 ≤ c ∧ c ≤ 2047) : -200704 ≤ toField c ∧ toField c ≤ 200606 := by
  rw [toField, Config.fieldLsbUt]
  omega

theorem sext32_toField_range {c : Int} (h : -2048 ≤ c ∧ c ≤ 2047) :
    -200704 ≤ (sext32 (toField c)).toInt ∧ (sext32 (toField c)).toInt ≤ 200606 := by
  have := toField_range h
  rwa [sext32_toInt (by omega) (by omega)]

/-- 41_scale.md R162: the temperature of a code in range. -/
theorem sext32_toTemperature_range {c : Int} (h : -2048 ≤ c ∧ c ≤ 2047) :
    -26048 ≤ (sext32 (toTemperature c)).toInt ∧ (sext32 (toTemperature c)).toInt ≤ 18997 := by
  have hd : -26048 ≤ toTemperature c ∧ toTemperature c ≤ 18997 := by
    rw [toTemperature, Config.tempOffset, Config.tempLsbDc]
    omega
  rwa [sext32_toInt (by omega) (by omega)]

/-- 43_magsq.md R202: three squares of at most 200704 * 200704 each. -/
theorem sumOfSquares_fields_le {a b c : Int} (ha : -2048 ≤ a ∧ a ≤ 2047) (hb : -2048 ≤ b ∧ b ≤ 2047)
    (hc : -2048 ≤ c ∧ c ≤ 2047) : sumOfSquares (toField a) (toField b) (toField c) ≤ 120846286848 := by
  have hsq {v : Int} (hv : -2048 ≤ v ∧ v ≤ 2047) : toField v * toField v ≤ 200704 * 200704 := by
    obtain ⟨hlo, hhi⟩ := toField_range hv
    nlinarith
  apply Int.toNat_le.mpr
  push_cast
  linarith [hsq ha, hsq hb, hsq hc]

/-! ### Angles -/

/-- A lower bound on the arctangent of a small ratio. -/
theorem half_le_arctan {r : ℝ} (h0 : 0 ≤ r) (h1 : r ≤ 1) : r / 2 ≤ Real.arctan r := by
  have hsqrt : √(1 + r ^ 2) ≤ 2 := Real.sqrt_le_iff.mpr ⟨by norm_num, by nlinarith⟩
  calc r / 2 ≤ r / √(1 + r ^ 2) := div_le_div_of_nonneg_left h0 (by positivity) hsqrt
    _ = Real.sin (Real.arctan r) := (Real.sin_arctan r).symm
    _ ≤ Real.arctan r := Real.sin_le (Real.arctan_nonneg.mpr h0)

/-- Where |x| is at most 2048 |y| the exact angle stays clear of 2pi. -/
theorem theta_le {x y : Int} (hx : x ≠ 0) (hy : y ≠ 0) (hxy : x.natAbs ≤ 2048 * y.natAbs) :
    theta x y ≤ 2 * Real.pi - 1 / 4096 := by
  have hpi := Real.pi_gt_three
  have hu := Real.arctan_lt_pi_div_two ((y : ℝ) / x)
  rw [theta, if_neg hy, if_neg hx]
  split_ifs with hx' hy'
  · linarith
  · have hr : (y : ℝ) / x ≤ -(1 / 2048) := by
      have : (x : ℝ) ≤ 2048 * -y := by exact_mod_cast (by omega : x ≤ 2048 * -y)
      rw [div_le_iff₀ (by exact_mod_cast hx')]
      linarith
    have harctan : Real.arctan ((y : ℝ) / x) ≤ -Real.arctan (1 / 2048) := by
      rw [← Real.arctan_neg]
      exact Real.arctan_mono hr
    have := half_le_arctan (r := 1 / 2048) (by norm_num) (by norm_num)
    linarith
  · linarith

/-- Where the exact code stays a code below QMAX, both roundings of it do too. -/
theorem faithfulCode_le_qMax {x y : Int} (up : Bool) (h : x ≠ 0 → y ≠ 0 → thetaCode x y ≤ qMax - 1) :
    faithfulCode up x y ≤ qMax := by
  unfold faithfulCode
  split_ifs with hy hx hx' hy' hup
  any_goals decide
  all_goals
    obtain ⟨hholds, hwidth⟩ := scaledTheta_spec hx' hy
    have ht := h hx' hy
    have hlo := hholds.lower
    rw [Enclosure.width] at hwidth
    apply Int.toNat_le.mpr
  · rw [Frac.ceilInt_eq hholds.loDen, Int.ceil_le]
    push_cast
    linarith
  · rw [Frac.floorInt_eq hholds.hiDen]
    have := Int.floor_le (scaledTheta x y).hi.val
    have : (⌊(scaledTheta x y).hi.val⌋ : ℝ) ≤ (qMax : ℝ) := by linarith
    exact_mod_cast this

/-- The angle of two fields is a code of [0, QMAX] (42_angle.md R182): a field other than 0 is at least 98. -/
theorem atanQ_field_le {a b : Int} (ha : -2048 ≤ a ∧ a ≤ 2047) : atanQ (toField a) (toField b) ≤ qMax := by
  refine faithfulCode_le_qMax _ fun hx hy => ?_
  have hxy : (toField a).natAbs ≤ 2048 * (toField b).natAbs := by
    simp only [toField, Config.fieldLsbUt] at hy ⊢
    omega
  have htheta := theta_le hx hy hxy
  have hpi := Real.pi_lt_d6
  rw [thetaCode, qMax]
  push_cast
  linarith

theorem zext32_toNat_le (n : Nat) : (zext32 n).toNat ≤ n :=
  (BitVec.toNat_ofNat n 32).le.trans (Nat.mod_le n _)

theorem zext64_toNat_le (n : Nat) : (zext64 n).toNat ≤ n :=
  (BitVec.toNat_ofNat n 64).le.trans (Nat.mod_le n _)

/-! ### The banks -/

theorem State.Inv.codes_range {s : State} (h : s.Inv) :
    ∀ c ∈ [s.codes.cX, s.codes.cY, s.codes.cZ, s.codes.cT], -2048 ≤ c.toInt ∧ c.toInt ≤ 2047 := by
  obtain ⟨hc, -⟩ | ⟨k, ⟨hx, hy, hz, ht⟩, hc, -⟩ := h.banks <;> rw [hc]
  · simp [CodeBank.reset]
  · simp only [codeBankOf, List.forall_mem_cons]
    exact ⟨sext32_code_range hx, sext32_code_range hy, sext32_code_range hz, sext32_code_range ht, nofun⟩

/-- The ranges of a reading (10_state.md R37 to R39, R41). -/
structure ReadingBank.InRange (q : ReadingBank) : Prop where
  fields : ∀ f ∈ [q.bX, q.bY, q.bZ], -200704 ≤ f.toInt ∧ f.toInt ≤ 200606
  temp : -26048 ≤ q.temp.toInt ∧ q.temp.toInt ≤ 18997
  angles : ∀ p ∈ [q.phiXY, q.phiYZ, q.phiXZ], p.toNat ≤ 3373259426
  m2 : q.m2.toNat ≤ 120846286848

theorem readingOf_inRange {k : AxisCodes} (h : k.InRange) : (readingOf k).InRange := by
  obtain ⟨hx, hy, hz, ht⟩ := h
  have hangle {a b : Int} (ha : -2048 ≤ a ∧ a ≤ 2047) : (zext32 (atanQ (toField a) (toField b))).toNat ≤ 3373259426 :=
    (zext32_toNat_le _).trans (atanQ_field_le ha)
  constructor
  case fields =>
    simp only [readingOf, fieldOf, List.forall_mem_cons]
    exact ⟨sext32_toField_range hx, sext32_toField_range hy, sext32_toField_range hz, nofun⟩
  case temp => exact sext32_toTemperature_range ht
  case angles =>
    simp only [readingOf, fieldOf, List.forall_mem_cons]
    exact ⟨hangle hx, hangle hy, hangle hx, nofun⟩
  case m2 => exact (zext64_toNat_le _).trans (sumOfSquares_fields_le hx hy hz)

theorem State.Inv.reading_inRange {s : State} (h : s.Inv) : s.reading.InRange := by
  obtain ⟨-, hr⟩ | ⟨k, hk, -, hr⟩ := h.banks <;> rw [hr]
  · constructor <;> simp [ReadingBank.reset]
  · exact readingOf_inRange hk

/-- Settles O57: the ranges of the codes of one UPDATE, and of the reading they make. -/
theorem bankRanges : Obligations.BankRanges := by
  intro s hs
  have hr := hs.reading_inRange
  refine ⟨fun c hc => ?_, hr.fields, hr.temp, hr.angles, hr.m2, hr.m2.trans_lt (by norm_num)⟩
  obtain ⟨hlo, hhi⟩ := hs.codes_range c hc
  exact ⟨hlo, hhi, fun k h11 h32 => getLsbD_of_code hlo hhi h11 h32⟩

end Sys2Proof.Machine
end

section
/-! PROOFS. The register map (10_state.md R45): what each index reads as, and what a write to it changes. -/

namespace Sys2Proof.Machine

variable {s t : State} {idx : Index} {r r' : Reg}

/-! ### Reads -/

theorem hostRead_reserved (h : regAt idx = none) (s : State) : hostRead idx s = 0 := by
  simp [hostRead, h]

/-- Two states read alike at an index when the register there, if there is one, does. -/
theorem hostRead_congr (h : ∀ r, idx = regIndex r → readReg r t = readReg r s) : hostRead idx t = hostRead idx s := by
  cases hr : regAt idx with
  | none => rw [hostRead_reserved hr, hostRead_reserved hr]
  | some r =>
    obtain rfl := regAt_some hr
    simpa using h r rfl

/-- The latency counter is not readable (10_state.md R46). -/
@[simp] theorem hostRead_latency (idx : Index) (s : State) (n : Nat) :
    hostRead idx { s with latency := n } = hostRead idx s :=
  hostRead_congr fun r _ => by cases r <;> rfl

/-- Settles O34: an index of the map reads as its register, a reserved one as 0. -/
theorem hostReadMap : Obligations.HostReadMap := by
  intro s
  refine ⟨hostRead_regIndex .cmd s, hostRead_regIndex .status s,
    hostRead_regIndex .a s, hostRead_regIndex .b s, hostRead_regIndex .c s,
    hostRead_regIndex .rLo s, hostRead_regIndex .rHi s,
    hostRead_regIndex .raw0 s, hostRead_regIndex .raw1 s, hostRead_regIndex .raw2 s, hostRead_regIndex .raw3 s,
    hostRead_regIndex .raw4 s, hostRead_regIndex .raw5 s, hostRead_regIndex .raw6 s,
    hostRead_regIndex .cX s, hostRead_regIndex .cY s, hostRead_regIndex .cZ s, hostRead_regIndex .cT s,
    hostRead_regIndex .bX s, hostRead_regIndex .bY s, hostRead_regIndex .bZ s, hostRead_regIndex .temp s,
    hostRead_regIndex .phiXY s, hostRead_regIndex .phiYZ s, hostRead_regIndex .phiXZ s,
    hostRead_regIndex .m2Lo s, hostRead_regIndex .m2Hi s, hostRead_regIndex .id s, fun idx h => ?_⟩
  exact hostRead_reserved ((regAt_none_iff idx).mpr h) s

/-! ### Writes -/

theorem hostWrite_reserved (h : regAt idx = none) (v : Word) (s : State) : hostWrite idx v s = s := by
  simp [hostWrite, h]

/-- A register other than CMD shares no readable bit with any other (20_memory.md R89). -/
theorem readReg_writeReg_ne (hcmd : r ≠ .cmd) (hne : r' ≠ r) (v : Word) (s : State) :
    readReg r' (writeReg r v s) = readReg r' s := by
  cases r
  case cmd => exact absurd rfl hcmd
  case status | a | b | c | raw0 | raw1 | raw2 | raw3 | raw4 | raw5 | raw6 => cases r' <;> trivial
  all_goals rfl

/-- Of the readable registers a write to CMD touches STATUS alone, whichever its outcome (60_exceptions.md R230). -/
theorem readReg_writeCmd (h : r ≠ .status) (w : Word) (s : State) : readReg r (writeCmd w s) = readReg r s := by
  obtain ⟨-, hw⟩ | ⟨-, -, hw⟩ | ⟨-, -, hw⟩ := writeCmd_cases w s
  all_goals rw [hw]; cases r <;> trivial

theorem hostRead_hostWrite_ne {idx' : Index} (hcmd : idx ≠ 0x00#6) (hne : idx' ≠ idx) (v : Word) (s : State) :
    hostRead idx' (hostWrite idx v s) = hostRead idx' s := by
  obtain h | ⟨r, rfl, h⟩ := hostWrite_cases idx v s <;> rw [h]
  refine hostRead_congr fun r' hr' => readReg_writeReg_ne ?_ ?_ v s
  · rintro rfl; exact hcmd rfl
  · rintro rfl; exact hne hr'

/-- Settles O38: through the map, from the same facts about registers. -/
theorem writesChangeOnlyTheirRegister : Obligations.WritesChangeOnlyTheirRegister := by
  refine ⟨fun s v idx idx' hcmd hne => hostRead_hostWrite_ne hcmd hne v s, fun s w idx' hne => ?_, fun s v idx hidx => ?_⟩
  · rw [show hostWrite 0x00#6 w s = writeCmd w s from hostWrite_regIndex .cmd w s]
    refine hostRead_congr fun r hr => readReg_writeCmd ?_ w s
    rintro rfl; exact hne hr
  · simp only [List.mem_cons, List.not_mem_nil, or_false] at hidx
    obtain rfl | rfl | rfl := hidx <;> rfl

/-- RAW0 to RAW6. -/
def rawRegs : List Reg := [.raw0, .raw1, .raw2, .raw3, .raw4, .raw5, .raw6]

/-- The registers that 10_state.md R45 marks RO. -/
def readOnlyRegs : List Reg :=
  [.rLo, .rHi, .cX, .cY, .cZ, .cT, .bX, .bY, .bZ, .temp, .phiXY, .phiYZ, .phiXZ, .m2Lo, .m2Hi, .id]

/-- Where RAW0 to RAW6 stand in the map, by enumeration of the 64 indices. -/
theorem exists_rawReg : ∀ idx : Index, 0x08 ≤ idx.toNat → idx.toNat ≤ 0x0E → ∃ r ∈ rawRegs, regAt idx = some r := by
  decide

/-- Where the read-only registers stand in the map, by enumeration of the 64 indices. -/
theorem exists_readOnlyReg : ∀ idx : Index,
    idx = 0x05#6 ∨ idx = 0x06#6 ∨ (0x10 ≤ idx.toNat ∧ idx.toNat ≤ 0x1C) ∨ idx = 0x3F#6 →
    ∃ r ∈ readOnlyRegs, regAt idx = some r := by
  decide

/-- The low byte of a word, zero-extended, in plain arithmetic. -/
theorem lowByte_setWidth (v : Word) : (v.extractLsb' 0 8).setWidth 32 = BitVec.ofNat 32 (v.toNat % 256) := by
  apply BitVec.eq_of_toNat_eq
  simp [BitVec.extractLsb'_toNat]

/-- 20_memory.md R81: a RAW write stays in the raw block, and its low byte reads back. -/
theorem writeReg_raw (h : r ∈ rawRegs) (v : Word) (s : State) :
    (∃ raw : RawBlock, writeReg r v s = { s with raw := raw }) ∧
    readReg r (writeReg r v s) = BitVec.ofNat 32 (v.toNat % 256) := by
  rw [← lowByte_setWidth]
  fin_cases h <;> exact ⟨⟨_, rfl⟩, rfl⟩

theorem writeReg_readOnly (h : r ∈ readOnlyRegs) (v : Word) (s : State) : writeReg r v s = s := by
  fin_cases h <;> rfl

/-- Settles O35: by the kind of the register at the index. -/
theorem hostWriteMap : Obligations.HostWriteMap := by
  intro s v
  refine ⟨hostWrite_regIndex .a v s, hostWrite_regIndex .b v s, hostWrite_regIndex .c v s,
    fun idx hlo hhi => ?_, fun idx h => ?_, fun idx h => hostWrite_reserved ((regAt_none_iff idx).mpr h) v s⟩
  · obtain ⟨r, hmem, hr⟩ := exists_rawReg idx hlo hhi
    obtain rfl := regAt_some hr
    obtain ⟨⟨raw, hraw⟩, hread⟩ := writeReg_raw hmem v s
    have hcmd : regIndex r ≠ 0x00#6 := fun h => by simp [h] at hlo
    exact ⟨raw, by rw [hostWrite_regIndex, hraw], by rw [hostWrite_regIndex, hostRead_regIndex, hread],
      fun idx' hne => hostRead_hostWrite_ne hcmd hne v s⟩
  · obtain ⟨r, hmem, hr⟩ := exists_readOnlyReg idx h
    rw [regAt_some hr, hostWrite_regIndex, writeReg_readOnly hmem]

end Sys2Proof.Machine
end

section
/-! PROOFS. The host's turn: which state its statement finds, and what reads, writes and bridge accesses make of it
(20_memory.md R80 to R90). -/

namespace Sys2Proof.Machine

open Sys2Proof.Statements

variable {s t : State} {st : HostStmt}

/-- Settles O7: the three cases of the schedule. -/
theorem hostMovesWhileNoCommitIsDue : Obligations.HostMovesWhileNoCommitIsDue := by
  refine ⟨fun s hr hi => step_idle hr hi, fun s hr hi hl => ?_, fun s hr => step_reset hr⟩
  obtain ⟨w, hw⟩ := Option.ne_none_iff_exists'.mp hi
  exact step_busy hr hw hl

/-- In the host's turn the step is the host's, on a state that HostFrom describes. -/
theorem step_of_hostsTurn (turn : HostsTurn s) : ∃ u, HostFrom s u ∧ step s = hostStep u := by
  obtain ⟨hr, hturn⟩ := turn
  cases hi : s.inflight with
  | none => exact ⟨s, .idle hr hi, step_idle hr hi⟩
  | some w =>
    have hl := hturn.resolve_left (by simp [hi])
    exact ⟨s.tick, .busy hr w hi hl, step_busy hr hi hl⟩

theorem hostStep_of_nextStmt (h : NextStmt s st) : hostStep s = execStmt st s := by
  unfold NextStmt at h
  simp [hostStep, h]

/-- In the host's turn its next statement is executed; only the latency counter has changed before (log 2). -/
theorem step_eq_execStmt (turn : HostsTurn s) (h : NextStmt s st) :
    ∃ n, step s = execStmt st { s with latency := n } := by
  obtain ⟨u, source, hu⟩ := step_of_hostsTurn turn
  obtain ⟨n, rfl⟩ := source.eq_latency
  exact ⟨n, hu.trans (hostStep_of_nextStmt h)⟩

/-- With RST low the port reads what it read before the latency counter ran down. -/
theorem portRead_latency (hr : s.rst = false) (idx : Index) (n : Nat) :
    portRead idx { s with latency := n } = hostRead idx s :=
  (portRead_run idx (s := { s with latency := n }) hr).trans (hostRead_latency idx s n)

/-- Settles O39: a read step sets HRDATA and moves the host. -/
theorem readStepHasNoSideEffect : Obligations.ReadStepHasNoSideEffect := by
  intro s idx turn h
  obtain ⟨n, hn⟩ := step_eq_execStmt turn h
  refine ⟨n, hn.trans ?_⟩
  rw [execStmt, stepRead, portRead_latency turn.1]
  rfl

/-- Settles O40: a write step is the write at the port, which leaves the host to go on. -/
theorem writeStepWrites : Obligations.WriteStepWrites := by
  intro s idx v turn h
  obtain ⟨n, hn⟩ := step_eq_execStmt turn h
  have hport := portWrite_run idx v (s := { s with latency := n }) turn.1
  have hhost : (hostWrite idx v { s with latency := n }).host = s.host := (hostWrite_frame idx v _).host
  refine ⟨n, hn.trans ?_⟩
  rw [execStmt, stepWrite, hport, State.hostNext, State.hostAt, State.setHrdata_host, hhost]
  rfl

/-! ### The bridge -/

theorem execStmt_busWrite_slot (idx : Index) (v : Word) (s : State) :
    execStmt (.busWrite (Config.tlvBase + 4 * idx.toNat) 4 v) s = execStmt (.access (.write idx v)) s := by
  simp [execStmt, bridgeIndex_slot]

theorem execStmt_busRead_slot (idx : Index) (s : State) :
    execStmt (.busRead (Config.tlvBase + 4 * idx.toNat) 4) s = execStmt (.access (.read idx)) s := by
  simp [execStmt, bridgeIndex_slot]

/-- 20_memory.md R87: inside the window, what is not one whole aligned word is refused. -/
theorem bridgeIndex_partial {off size : Nat} (hoff : off < 256) (h : size ≠ 4 ∨ off % 4 ≠ 0) :
    bridgeIndex (Config.tlvBase + off) size = .error (.partialWordAccess (Config.tlvBase + off) size) := by
  unfold bridgeIndex
  rw [if_neg (by omega), if_pos (by omega)]

/-- Settles O42: a slot's address reaches the slot, a partial access is refused before it reaches the port. -/
theorem bridgeAccesses : Obligations.BridgeAccesses := by
  refine ⟨fun s idx v => ⟨execStmt_busWrite_slot idx v s, execStmt_busRead_slot idx s⟩,
    fun s off size v hoff hpart turn => ⟨fun h => ?_, fun h => ?_⟩⟩
  all_goals
    obtain ⟨n, hn⟩ := step_eq_execStmt turn h
    rw [hn, execStmt, bridgeIndex_partial hoff hpart]

end Sys2Proof.Machine
end

section
/-! PROOFS. Polling (20_memory.md R91): a run whose host never raises RST, the commit that must lie in it when BUSY falls, and
what stands after that commit. -/

namespace Sys2Proof.Machine

open Sys2Proof.Statements

variable {s t u v y : State} {i : Instr} {n : Nat} {st : HostStmt} {idx : Index}

/-! ### Runs -/

theorem run_zero_eq_next_iff : core.run 0 s = .next u ↔ s = u :=
  ⟨Host.Outcome.next.inj, congrArg _⟩

/-- A run of any machine goes on where its first step leads. -/
theorem coreRun_succ_of_step (M : Host.Core) (n : Nat) {s t : M.State} (h : M.step s = .next t) :
    M.run (n + 1) s = M.run n t := by
  simp [Host.Core.run, h]

/-- A run of any machine that ends in a state has a first step. -/
theorem exists_step_of_coreRun_succ (M : Host.Core) {n : Nat} {s u : M.State} (h : M.run (n + 1) s = .next u) :
    ∃ t, M.step s = .next t ∧ M.run n t = .next u := by
  rw [Host.Core.run] at h
  split at h
  · next t ht => exact ⟨t, ht, h⟩
  all_goals cases h

theorem run_succ_of_step (n : Nat) (h : step s = .next t) : core.run (n + 1) s = core.run n t :=
  coreRun_succ_of_step core n h

theorem exists_step_of_run_succ (h : core.run (n + 1) s = .next u) : ∃ t, step s = .next t ∧ core.run n t = .next u :=
  exists_step_of_coreRun_succ core h

theorem State.Inv.after_run (hs : s.Inv) (h : core.run n s = .next u) : u.Inv := by
  induction n generalizing s with
  | zero => exact run_zero_eq_next_iff.mp h ▸ hs
  | succ n ih =>
    obtain ⟨t, ht, hrun⟩ := exists_step_of_run_succ h
    exact ih (everyStepKeepsTheInvariant s t hs ht) hrun

/-! ### A host that leaves RST low -/

/-- RST is low and no statement of the host raises it. -/
structure State.RstStaysLow (s : State) : Prop where
  rst : s.rst = false
  quiet : ∀ st ∈ s.host.program, st ≠ .rst true

theorem step_keeps_program (h : step s = .next t) : t.host.program = s.host.program := by
  cases step_cases h with
  | commit i due run => rw [(exec_commitFrame run).host]
  | write u source idx v st stmt writes eq =>
    obtain ⟨n, rfl⟩ := source.eq_latency
    subst eq
    rw [State.hostNext_host, State.setHrdata_host, (hostWrite_frame idx v _).host]
  | quiet u source d p eq => obtain ⟨n, rfl⟩ := source.eq_latency; subst eq; rfl
  | reset d p level high eq => subst eq; rfl

/-- A host step raises RST only by a statement that says so. -/
theorem hostStep_keeps_rst_low (hs : s.RstStaysLow) (h : hostStep s = .next t) : t.rst = false := by
  obtain ⟨idx, v, st, -, -, rfl⟩ | ⟨d, p, rfl⟩ | ⟨level, hst, rfl⟩ := hostStep_next h
  · rw [stepWrite, portWrite_run idx v hs.rst]
    exact (hostWrite_frame idx v s).rst.trans hs.rst
  · exact hs.rst
  · cases level with
    | false => rfl
    | true => exact absurd rfl (hs.quiet _ (List.mem_of_getElem? hst))

theorem State.RstStaysLow.after_step (hs : s.RstStaysLow) (h : step s = .next t) : t.RstStaysLow := by
  refine ⟨?_, by rw [step_keeps_program h]; exact hs.quiet⟩
  obtain ⟨hr, -⟩ | ⟨-, -, h⟩ | ⟨-, -, -, h⟩ | ⟨hr, w, i, -, -, -, run⟩ := step_next h
  · simp [hs.rst] at hr
  · exact hostStep_keeps_rst_low hs h
  · exact hostStep_keeps_rst_low (s := s.tick) ⟨hs.rst, hs.quiet⟩ h
  · exact (exec_commitFrame run).rst.trans hr

/-! ### The commit -/

theorem encode_injective {i j : Instr} (h : encode i = encode j) : i = j := by
  have hd : ∀ k : Instr, decode (encode k) = .ok k := fun k => by cases k <;> rfl
  exact Except.ok.inj ((hd i).symm.trans (h ▸ hd j))

/-- A step from a command in flight commits that command, or leaves it in flight with its operands (60_exceptions.md R234). -/
theorem step_commits_or_keeps_command (hinv : s.Inv) (hs : s.RstStaysLow) (hi : s.inflight = some (encode i))
    (h : step s = .next t) : exec i s = .next t ∨ (t.inflight = some (encode i) ∧ t.cap = s.cap) := by
  have hlow := (hs.after_step h).rst
  cases step_cases h with
  | commit j due run =>
    obtain ⟨-, hj, -⟩ := due
    obtain rfl := encode_injective (Option.some.inj (hj.symm.trans hi))
    exact .inl run
  | write u source idx v st stmt writes eq =>
    obtain ⟨n, rfl⟩ := source.eq_latency
    have hbusy : s.flag .busy = true := by rw [hinv.busy_iff, hi]; rfl
    obtain ⟨hin, -, hcap, -, -⟩ := hostWrite_busy idx v { s with latency := n } hbusy
    subst eq
    exact .inr ⟨hin.trans hi, hcap⟩
  | quiet u source d p eq =>
    obtain ⟨n, rfl⟩ := source.eq_latency
    subst eq
    exact .inr ⟨hi, rfl⟩
  | reset d p level high eq => subst eq; exact (atReset_absurd high hs.rst hlow).elim

/-- The run of `n` steps from `s` to `u` holds a commit of `i`, from `x` to `t`, as its step number `m`; `x` still has the
operands that `s` has captured. -/
structure CommitInRun (i : Instr) (s u : State) (n m : Nat) (x t : State) : Prop where
  lt : m < n
  before : core.run m s = .next x
  inflight : x.inflight = some (encode i)
  cap : x.cap = s.cap
  commit : exec i x = .next t
  committed : core.run (m + 1) s = .next t
  after : core.run (n - (m + 1)) t = .next u
  rst : t.RstStaysLow

/-- A step before it moves the commit on by one. -/
theorem CommitInRun.cons {s s' x : State} {m : Nat} (h : CommitInRun i s' u n m x t) (hstep : step s = .next s')
    (hcap : s'.cap = s.cap) : CommitInRun i s u (n + 1) (m + 1) x t where
  lt := Nat.succ_lt_succ h.lt
  before := (run_succ_of_step m hstep).trans h.before
  inflight := h.inflight
  cap := h.cap.trans hcap
  commit := h.commit
  committed := (run_succ_of_step (m + 1) hstep).trans h.committed
  after := by rw [Nat.add_sub_add_right]; exact h.after
  rst := h.rst

/-- Between a command in flight and nothing in flight lies that command's commit. -/
theorem exists_commitInRun (hinv : s.Inv) (hs : s.RstStaysLow) (hi : s.inflight = some (encode i))
    (hrun : core.run n s = .next u) (hu : u.inflight = none) : ∃ m x t, CommitInRun i s u n m x t := by
  induction n generalizing s with
  | zero =>
    obtain rfl := run_zero_eq_next_iff.mp hrun
    simp [hi] at hu
  | succ n ih =>
    obtain ⟨s', hstep, hrest⟩ := exists_step_of_run_succ hrun
    obtain hcommit | ⟨hi', hcap⟩ := step_commits_or_keeps_command hinv hs hi hstep
    · exact ⟨0, s, s', n.succ_pos, rfl, hi, rfl, hcommit, run_succ_of_step 0 hstep, hrest, hs.after_step hstep⟩
    · obtain ⟨m, x, t, h⟩ := ih (everyStepKeepsTheInvariant s s' hinv hstep) (hs.after_step hstep) hi' hrest
      exact ⟨m + 1, x, t, h.cons hstep hcap⟩

/-! ### After the commit -/

theorem sameResults_refl (s : State) : SameResults s s := ⟨rfl, rfl, rfl, fun _ _ => rfl⟩

theorem sameResults_trans (h : SameResults s t) (h' : SameResults t u) : SameResults s u := by
  obtain ⟨hr, hc, hb, hf⟩ := h
  obtain ⟨hr', hc', hb', hf'⟩ := h'
  exact ⟨hr'.trans hr, hc'.trans hc, hb'.trans hb, fun f hm => (hf' f hm).trans (hf f hm)⟩

/-- With nothing in flight no commit is due, so a run keeps the results until a command is in flight (70_reset_and_hazards.md
R266). -/
theorem sameResults_of_idle_run (hs : s.RstStaysLow) (hrun : core.run n s = .next y)
    (hidle : ∀ k w, k ≤ n → core.run k s = .next w → w.inflight = none) : SameResults s y := by
  induction n generalizing s with
  | zero =>
    obtain rfl := run_zero_eq_next_iff.mp hrun
    exact sameResults_refl s
  | succ n ih =>
    obtain ⟨t, hstep, hrest⟩ := exists_step_of_run_succ hrun
    have ht := hs.after_step hstep
    have turn : HostsTurn s := ⟨hs.rst, .inl (hidle 0 s (Nat.zero_le _) rfl)⟩
    have hfirst : SameResults s t := resultsChangeOnlyAtCommit s t turn hstep ht.rst
    refine sameResults_trans hfirst (ih ht hrest fun k w hk hw => ?_)
    exact hidle (k + 1) w (Nat.succ_le_succ hk) ((run_succ_of_step k hstep).trans hw)

/-! ### The poll -/

/-- A read of an index, in any of its forms, returns the word at the port and leaves the command. -/
theorem execStmt_read_forms
    (form : st = .access (.read idx) ∨ (∃ mask target, st = .bnz idx mask target) ∨
      st = .busRead (Config.tlvBase + 4 * idx.toNat) 4)
    (h : execStmt st s = .next v) : v.hrdata = some (portRead idx s) ∧ v.inflight = s.inflight := by
  obtain rfl | ⟨mask, target, rfl⟩ | rfl := form
  case inr.inr => rw [execStmt_busRead_slot] at h; cases h; exact ⟨rfl, rfl⟩
  all_goals cases h; exact ⟨rfl, rfl⟩

/-- STATUS reads with BUSY as its bit 0 (10_state.md R43). -/
theorem hostRead_status_bit_zero (s : State) : (hostRead 0x01#6 s).getLsbD 0 = s.flag .busy := by
  rw [show hostRead 0x01#6 s = s.status.setWidth 32 from hostRead_regIndex .status s]
  simp [State.flag, getFlag, flagBit]

/-- A poll that finds BUSY = 0 was made while BUSY was 0, and leaves the command. -/
theorem not_busy_of_findsIdle (turn : HostsTurn u) (hst : NextStmt u st) (h : step u = .next v) (idle : FindsIdle u v st) :
    u.flag .busy = false ∧ v.inflight = u.inflight := by
  obtain ⟨n, hn⟩ := step_eq_execStmt turn hst
  have hexec := hn.symm.trans h
  obtain ⟨form, d, hd, hbit⟩ | ⟨⟨target, rfl⟩, hbusyo⟩ := idle
  · obtain ⟨hdata, hin⟩ := execStmt_read_forms (idx := 0x01#6) form hexec
    rw [portRead_latency turn.1, hd] at hdata
    rw [Option.some.inj hdata, hostRead_status_bit_zero] at hbit
    exact ⟨hbit, hin⟩
  · cases hexec
    exact ⟨hbusyo, rfl⟩

/-- Settles O43: nothing is in flight at the poll, so the commit lies in the run before it, and its results stand. -/
theorem pollSeesTheCommit : Obligations.PollSeesTheCommit := by
  intro s u v i n st hinv hr hi hquiet hrun turn hst hstep idle
  have hs : s.RstStaysLow := ⟨hr, fun st' hmem => (hquiet st' hmem).2⟩
  obtain ⟨hbusy, hv⟩ := not_busy_of_findsIdle turn hst hstep idle
  have hu : u.inflight = none := by
    rw [(hinv.after_run hrun).busy_iff] at hbusy
    simpa using hbusy
  obtain ⟨m, x, t, h⟩ := exists_commitInRun hinv hs hi hrun hu
  exact ⟨hu, hv.trans hu, m, x, t, h.lt, h.before, h.inflight, h.cap, h.commit, h.committed, h.after,
    fun j y hy hidle => sameResults_of_idle_run h.rst hy hidle⟩

end Sys2Proof.Machine
end

section
/-! PROOFS. The command words (30_encoding.md R110 to R113): decoding and encoding agree, and which words are commands. -/

namespace Sys2Proof

open Sys2Proof.Statements

/-- Encoding loses no command. -/
@[simp] theorem decode_encode (i : Instr) : decode (encode i) = .ok i := by cases i <;> rfl

theorem decode_eq_ok_iff (w : Word) (i : Instr) : decode w = .ok i ↔ w = encode i :=
  ⟨eq_encode_of_decode, fun h => h ▸ decode_encode i⟩

/-- Settles O2: a decoded word is the encoding of its command, and the encoding of a command decodes to it. -/
theorem decodeEncodeAgree : Obligations.DecodeEncodeAgree := decode_eq_ok_iff

/-- Settles O3: each word of the opcode map is the encoding of its row. -/
theorem opcodeMapWordsDecode : Obligations.OpcodeMapWordsDecode :=
  ⟨decode_encode .nop, decode_encode .sext12, decode_encode .decaxL, decode_encode .decaxH, decode_encode .dect,
    decode_encode .convf, decode_encode .convt, decode_encode .angle, decode_encode .magsq, decode_encode .update⟩

theorem legal_encode (i : Instr) : Legal (encode i) := by
  cases i <;> exact ⟨rfl, by decide, by decide⟩

/-- The rows of the opcode map, in its order. -/
def opcodeRows : List Instr := [.nop, .sext12, .decaxL, .decaxH, .dect, .convf, .convt, .angle, .magsq, .update]

theorem mem_opcodeRows (i : Instr) : i ∈ opcodeRows := by cases i <;> decide

theorem exists_decode_iff_mem_words (w : Word) : (∃ i, decode w = .ok i) ↔ w ∈ opcodeRows.map encode := by
  simp [decode_eq_ok_iff, mem_opcodeRows, eq_comm (a := w)]

/-- Settles O1: a decoded word is the encoding of a command, which is legal and stands in the opcode map. -/
theorem decodeAcceptsExactlyTheLegalWords : Obligations.DecodeAcceptsExactlyTheLegalWords := by
  refine ⟨fun w => ⟨fun ⟨i, hi⟩ => ?_, decode_of_legal⟩, exists_decode_iff_mem_words⟩
  rw [eq_encode_of_decode hi]
  exact legal_encode i

end Sys2Proof
end

section
/-! PROOFS. The access record (30_encoding.md R119) as its three fields HWE, HIDX and HWDATA. -/

namespace Sys2Proof.Machine

/-- The record with the fields `we`, `idx` and `v`. -/
def recordOf (we : Bool) (idx : Index) (v : Word) : AccessRecord := BitVec.ofBool we ++ idx ++ v

theorem encodeAccess_read (idx : Index) : encodeAccess (.read idx) = recordOf false idx 0#32 := rfl

theorem encodeAccess_write (idx : Index) (v : Word) : encodeAccess (.write idx v) = recordOf true idx v := rfl

section fields

variable (we : Bool) (idx : Index) (v : Word)

theorem recordOf_toNat : (recordOf we idx v).toNat = we.toNat * 2 ^ 38 + idx.toNat * 2 ^ 32 + v.toNat := by
  rw [recordOf, BitVec.toNat_append, BitVec.toNat_append, ← Nat.shiftLeft_add_eq_or_of_lt v.isLt,
    ← Nat.shiftLeft_add_eq_or_of_lt idx.isLt, Nat.shiftLeft_eq, Nat.shiftLeft_eq, BitVec.toNat_ofBool]
  ring

theorem recordOf_data : (recordOf we idx v).extractLsb' 0 32 = v := BitVec.extractLsb'_append_eq_right

theorem recordOf_index : (recordOf we idx v).extractLsb' 32 6 = idx := by
  apply BitVec.eq_of_toNat_eq
  rw [BitVec.extractLsb'_toNat, recordOf_toNat, Nat.shiftRight_eq_div_pow]
  omega

theorem recordOf_we : (recordOf we idx v).getLsbD 38 = we := by
  rw [recordOf, BitVec.getLsbD_append, if_neg (by decide), BitVec.getLsbD_append, if_neg (by decide)]
  cases we <;> rfl

end fields

/-- A record is determined by its fields: no bit of it lies outside them. -/
theorem recordOf_eq {x : AccessRecord} {we : Bool} {idx : Index} {v : Word} (hwe : x.getLsbD 38 = we)
    (hidx : x.extractLsb' 32 6 = idx) (hv : x.extractLsb' 0 32 = v) : recordOf we idx v = x := by
  have hbit : (x.getLsbD 38).toNat = x.toNat / 2 ^ 38 % 2 := Nat.toNat_testBit x.toNat 38
  have hx := x.isLt
  subst hwe hidx hv
  apply BitVec.eq_of_toNat_eq
  rw [recordOf_toNat, hbit, BitVec.extractLsb'_toNat, BitVec.extractLsb'_toNat, Nat.shiftRight_eq_div_pow,
    Nat.shiftRight_eq_div_pow]
  omega

theorem decodeAccess_encodeAccess (acc : Access) : decodeAccess (encodeAccess acc) = some acc := by
  cases acc with
  | read idx =>
    rw [encodeAccess_read, decodeAccess, recordOf_we, if_neg Bool.false_ne_true, recordOf_data, if_pos rfl, recordOf_index]
  | write idx v => rw [encodeAccess_write, decodeAccess, recordOf_we, if_pos rfl, recordOf_data, recordOf_index]

theorem encodeAccess_of_decodeAccess {x : AccessRecord} {acc : Access} (h : decodeAccess x = some acc) :
    encodeAccess acc = x := by
  unfold decodeAccess at h
  split_ifs at h with hwe hdata
  · rw [← Option.some.inj h, encodeAccess_write]
    exact recordOf_eq hwe rfl rfl
  · rw [← Option.some.inj h, encodeAccess_read]
    exact recordOf_eq (Bool.eq_false_of_not_eq_true hwe) rfl hdata

/-- Settles O4: a record is its three fields, of which those of an access give it back. -/
theorem accessRecordRoundTrip : Obligations.AccessRecordRoundTrip := by
  refine ⟨decodeAccess_encodeAccess, fun _ _ => encodeAccess_of_decodeAccess, fun idx v => ?_, fun idx => ?_⟩
  · simp [encodeAccess_write, recordOf_toNat]
  · simp [encodeAccess_read, recordOf_toNat]

end Sys2Proof.Machine
end

section
/-! PROOFS. The host's branches (30_encoding.md R117, 60_exceptions.md R239). -/

namespace Sys2Proof.Machine

open Sys2Proof.Statements

/-- Settles O41: in the host's turn the branch is executed, and it writes HRDATA and the host's position alone. -/
theorem hostBranches : Obligations.HostBranches := by
  refine ⟨fun s idx mask target turn h => ?_, fun s target turn h => ?_, fun s target turn h => ?_⟩
  all_goals
    obtain ⟨n, hn⟩ := step_eq_execStmt turn h
    refine ⟨n, hn.trans ?_⟩
  · rw [execStmt, stepBnz, portRead_latency turn.1]
    rfl
  · rfl
  · rfl

end Sys2Proof.Machine
end

section
/-! PROOFS. The assembler on a program followed by another, and the expansions of R118. -/

namespace Sys2Proof.Machine

variable {labels : List (String × Nat)} {pos : Nat} {prog : List HostStmt}

theorem expandAt_length {st : AsmStmt} (hx : expandAt labels pos st = some prog) : prog.length = asmWidth st := by
  cases st
  case bnz | b =>
    obtain ⟨t, -, rfl⟩ := Option.map_eq_some_iff.mp hx
    rfl
  all_goals
    cases hx
    rfl

/-- A program that assembles is as before when another follows it, which stands right behind it. -/
theorem assembleFrom_append {p : List AsmStmt} (hp : assembleFrom labels pos p = some prog) (q : List AsmStmt) :
    assembleFrom labels pos (p ++ q) = (assembleFrom labels (pos + prog.length) q).map (prog ++ ·) := by
  induction p generalizing pos prog with
  | nil =>
    cases hp
    simp
  | cons st p ih =>
    simp only [assembleFrom, Option.bind_eq_bind, Option.bind_eq_some_iff, Option.some.injEq] at hp
    obtain ⟨here, hhere, more, hmore, rfl⟩ := hp
    have hlen := expandAt_length hhere
    rw [← hlen] at hmore
    rw [List.cons_append, assembleFrom, hhere, ← hlen, ih hmore, List.length_append, Nat.add_assoc]
    simp [Option.map_eq_bind, Option.bind_assoc]

/-- poll names no position. -/
theorem labelTable_append_poll (pos : Nat) (p : List AsmStmt) : labelTable pos (p ++ [.poll]) = labelTable pos p := by
  fun_induction labelTable pos p with
  | case1 pos => rfl
  | case2 pos n rest ih => simp [labelTable, ih]
  | case3 pos st rest hst ih => simp [labelTable, ih]

theorem assemble_append_poll {p : List AsmStmt} (hp : assemble p = some prog) :
    assemble (p ++ [.poll]) = some (prog ++ [.bnz 0x01#6 0x1#32 prog.length]) := by
  rw [assemble, labelTable_append_poll, assembleFrom_append hp, Nat.zero_add]
  rfl

/-- Settles O59: by the expansion of each pseudo-instruction; poll's own position is the length of what stands before it. -/
theorem pseudoInstructionExpansions : Obligations.PseudoInstructionExpansions :=
  ⟨rfl, rfl, rfl, fun _ _ => assemble_append_poll, by decide, rfl, fun _ _ _ _ _ _ _ => rfl, fun _ _ => rfl⟩

end Sys2Proof.Machine
end

section
/-! PROOFS. The UNPACK unit (40_unpack.md): what its commands commit, and where the bits of each composite come from. -/

namespace Sys2Proof.Machine

open Sys2Proof.Statements

/-- A commit of a signed value writes R, clears BUSY and the word in flight, and nothing else (10_state.md R47). -/
theorem commitSigned_eq_onlyR (s : State) (v : Int) : s.commitSigned v = onlyR s (BitVec.ofInt 64 v) 0 := rfl

theorem signfix_eq_signedCode {v : Composite} {n : Nat} (h : v.toNat = n) : signfix v = signedCode n := h ▸ rfl

/-- The commit of a composite, by the composite's value. -/
theorem exists_onlyR_of_composite {i : Instr} {s : State} {v : Composite} {n : Nat}
    (run : exec i s = .next (s.commitSigned (signfix v))) (h : v.toNat = n) :
    ∃ lat, exec i s = .next (onlyR s (BitVec.ofInt 64 (signedCode n)) lat) :=
  ⟨0, by rw [run, commitSigned_eq_onlyR, signfix_eq_signedCode h]⟩

/-! ## The composites of the captured operands -/

theorem axisLow_bytes_toNat (s : State) :
    (axisLow s.byteA s.byteB).toNat = s.cap.a.toNat % 256 * 16 + s.cap.b.toNat % 16 := by
  rw [axisLow_toNat, byteA_toNat, byteB_toNat, Nat.mod_mod_of_dvd _ (by decide : 16 ∣ 256)]

theorem axisHigh_bytes_toNat (s : State) :
    (axisHigh s.byteA s.byteB).toNat = s.cap.a.toNat % 256 * 16 + s.cap.b.toNat % 256 / 16 := by
  rw [axisHigh_toNat, byteA_toNat, byteB_toNat]

theorem tempComposite_bytes_toNat (s : State) :
    (tempComposite s.byteA s.byteB).toNat = s.cap.a.toNat % 256 / 16 * 256 + s.cap.b.toNat % 256 := by
  rw [tempComposite_toNat, byteA_toNat, byteB_toNat]

/-- Settles O9, from the value of DECAX.L's composite. -/
theorem decaxLowResult : Obligations.DecaxLowResult :=
  ⟨decode_encode .decaxL, fun s => exists_onlyR_of_composite (exec_decaxL s) (axisLow_bytes_toNat s)⟩

/-- Settles O10, from the value of DECAX.H's composite. -/
theorem decaxHighResult : Obligations.DecaxHighResult :=
  ⟨decode_encode .decaxH, fun s => exists_onlyR_of_composite (exec_decaxH s) (axisHigh_bytes_toNat s)⟩

/-- Settles O11, from the value of DECT's composite. -/
theorem dectResult : Obligations.DectResult :=
  ⟨decode_encode .dect, fun s => exists_onlyR_of_composite (exec_dect s) (tempComposite_bytes_toNat s)⟩

/-- Settles O8, from the value of `cap[A][11:0]`. -/
theorem sext12Result : Obligations.Sext12Result :=
  ⟨decode_encode .sext12, fun s => exists_onlyR_of_composite (exec_sext12 s) (compositeA_toNat s)⟩

/-- Settles O15: each row of the table is the sign fixup of its composite's value. -/
theorem perAxisUnpackTable : Obligations.PerAxisUnpackTable := by
  intro w
  rw [unpackRaw, signfix_eq_signedCode (axisHigh_toNat w.raw0 w.raw4), signfix_eq_signedCode (axisLow_toNat w.raw1 w.raw4),
    signfix_eq_signedCode (axisLow_toNat w.raw2 w.raw5), signfix_eq_signedCode (tempComposite_toNat w.raw3 w.raw6)]

/-! ## The sign fixup -/

theorem signfix_eq_toInt (v : Composite) : signfix v = v.toInt := by
  rw [signfix_eq, BitVec.toInt_eq_toNat_cond]
  split_ifs <;> omega

/-- Bit 11 is the sign bit (40_unpack.md R141). -/
theorem signfix_neg_iff (v : Composite) : signfix v < 0 ↔ v.getLsbD 11 = true := by
  have hmsb : v.getLsbD 11 = v.msb := rfl
  rw [hmsb, BitVec.msb_eq_toInt, signfix_eq_toInt, decide_eq_true_iff]

/-- Settles O12: the two cases of the sign fixup, which is the signed value of the pattern. -/
theorem signFixupIsTwelveBitSigned : Obligations.SignFixupIsTwelveBitSigned := by
  intro v
  have hlow : v.toNat < 2048 → signfix v = v.toNat := fun h => if_pos h
  have hhigh : 2048 ≤ v.toNat → signfix v = (v.toNat : Int) - 4096 := fun h => if_neg (Nat.not_lt.mpr h)
  obtain ⟨hmin, hmax⟩ := signfix_range v
  have hneg (h : 2048 ≤ v.toNat) : signfix v < 0 := by
    have := v.isLt
    rw [hhigh h]
    omega
  exact ⟨signfix_eq_toInt v, hlow, hhigh, hmin, hmax, hneg, signfix_neg_iff v⟩

/-! ## The composites as concatenations -/

/-- The high nibble of a byte. -/
theorem byte_extract_high_toNat (l : Byte) : (l.extractLsb' 4 4).toNat = l.toNat / 16 := by
  have hl := l.isLt
  rw [BitVec.extractLsb'_toNat, Nat.shiftRight_eq_div_pow]
  omega

theorem byte_extract_low_toNat (l : Byte) : (l.extractLsb' 0 4).toNat = l.toNat % 16 :=
  BitVec.extractLsb'_toNat ..

/-- Concatenation is addition of the upper part, moved up, and the lower part. -/
theorem toNat_append_eq_add {m n : Nat} (x : BitVec m) (y : BitVec n) : (x ++ y).toNat = x.toNat * 2 ^ n + y.toNat := by
  rw [BitVec.toNat_append, ← Nat.shiftLeft_add_eq_or_of_lt y.isLt, Nat.shiftLeft_eq]

theorem axisLow_eq_append (h l : Byte) : axisLow h l = h ++ l.extractLsb' 0 4 :=
  BitVec.eq_of_toNat_eq (by rw [axisLow_toNat, toNat_append_eq_add, byte_extract_low_toNat]; rfl)

theorem axisHigh_eq_append (h l : Byte) : axisHigh h l = h ++ l.extractLsb' 4 4 :=
  BitVec.eq_of_toNat_eq (by rw [axisHigh_toNat, toNat_append_eq_add, byte_extract_high_toNat]; rfl)

theorem tempComposite_eq_append (st t : Byte) : tempComposite st t = st.extractLsb' 4 4 ++ t :=
  BitVec.eq_of_toNat_eq (by rw [tempComposite_toNat, toNat_append_eq_add, byte_extract_high_toNat]; rfl)

theorem getLsbD_append_upper {m n : Nat} (x : BitVec m) (y : BitVec n) (k : Nat) : (x ++ y).getLsbD (k + n) = x.getLsbD k := by
  rw [BitVec.getLsbD_append, if_neg (by omega), Nat.add_sub_cancel]

theorem getLsbD_append_lower {m n k : Nat} (x : BitVec m) (y : BitVec n) (hk : k < n) : (x ++ y).getLsbD k = y.getLsbD k := by
  rw [BitVec.getLsbD_append, if_pos hk]

/-- A bit of the nibble of `l` that starts at `start`. -/
theorem getLsbD_nibble {k : Nat} (start : Nat) (l : Byte) (hk : k < 4) :
    (l.extractLsb' start 4).getLsbD k = l.getLsbD (start + k) := by
  rw [BitVec.getLsbD_extractLsb', decide_eq_true hk, Bool.true_and]

/-- Settles O13: both composites are the high byte followed by a nibble of the companion byte. -/
theorem axisCompositeBitMap : Obligations.AxisCompositeBitMap := by
  intro h l
  rw [axisLow_eq_append, axisHigh_eq_append]
  refine ⟨fun k _ => ⟨getLsbD_append_upper .., getLsbD_append_upper ..⟩, fun k hk => ⟨?_, ?_⟩⟩
  · rw [getLsbD_append_lower _ _ hk, getLsbD_nibble 0 l hk, Nat.zero_add]
  · rw [getLsbD_append_lower _ _ hk, getLsbD_nibble 4 l hk, Nat.add_comm]

/-- Settles O14: the composite is the status byte's high nibble followed by the low byte. -/
theorem temperatureCompositeBitMap : Obligations.TemperatureCompositeBitMap := by
  intro st t
  rw [tempComposite_eq_append]
  refine ⟨fun k hk => ?_, fun k hk => getLsbD_append_lower _ _ hk⟩
  rw [getLsbD_append_upper, getLsbD_nibble 4 st hk, Nat.add_comm]

end Sys2Proof.Machine
end

section
/-! PROOFS. The SCALE unit (41_scale.md): what CONVF and CONVT commit, and the reading as the conversions of its codes. -/

namespace Sys2Proof.Machine

open Sys2Proof.Statements

/-! ## The commands -/

theorem codeA_eq_signedCode (s : State) : s.codeA = signedCode (s.cap.a.toNat % 4096) :=
  signfix_eq_signedCode (compositeA_toNat s)

/-- 41_scale.md R162: the temperature of a code in range. -/
theorem toTemperature_range {c : Int} (h : -2048 ≤ c ∧ c ≤ 2047) : -26048 ≤ toTemperature c ∧ toTemperature c ≤ 18997 := by
  rw [toTemperature, Config.tempOffset, Config.tempLsbDc]
  omega

/-- A committed value that 32 bits can hold stands in R exactly. -/
theorem commitSigned_result {i : Instr} {s : State} {v lo hi : Int} (run : exec i s = .next (s.commitSigned v))
    (hv : lo ≤ v ∧ v ≤ hi) (hlo : -2 ^ 31 ≤ lo) (hhi : hi < 2 ^ 31) :
    (∃ lat, exec i s = .next (onlyR s (BitVec.ofInt 64 v) lat)) ∧ lo ≤ v ∧ v ≤ hi ∧ (BitVec.ofInt 64 v).toInt = v :=
  ⟨⟨0, by rw [run, commitSigned_eq_onlyR]⟩, hv.1, hv.2, BitVec.toInt_ofInt_eq_self (by decide) (by omega) (by omega)⟩

/-- Settles O16, from the range of the field of a signed code. -/
theorem convfResult : Obligations.ConvfResult := by
  refine ⟨decode_encode .convf, fun s => ?_⟩
  rw [← codeA_eq_signedCode]
  exact commitSigned_result (exec_convf s) (toField_range (signfix_range s.compositeA)) (by decide) (by decide)

/-- Settles O17, from the range of the temperature of a signed code. -/
theorem convtResult : Obligations.ConvtResult := by
  refine ⟨decode_encode .convt, fun s => ?_⟩
  rw [← codeA_eq_signedCode]
  exact commitSigned_result (exec_convt s) (toTemperature_range (signfix_range s.compositeA)) (by decide) (by decide)

/-! ## The reading -/

theorem sext32_code_toInt {c : Int} (h : -2048 ≤ c ∧ c ≤ 2047) : (sext32 c).toInt = c :=
  sext32_toInt (by omega) (by omega)

theorem sext32_toField_toInt {c : Int} (h : -2048 ≤ c ∧ c ≤ 2047) : (sext32 (toField c)).toInt = toField c := by
  have := toField_range h
  exact sext32_toInt (by omega) (by omega)

/-- The stored field is the conversion of the stored code (41_scale.md R160). -/
theorem stored_field_eq {c : Int} (h : -2048 ≤ c ∧ c ≤ 2047) : (sext32 (toField c)).toInt = (sext32 c).toInt * 98 := by
  rw [sext32_toField_toInt h, sext32_code_toInt h]
  rfl

/-- The stored temperature is the conversion of the stored code (41_scale.md R162). -/
theorem stored_temperature_eq {c : Int} (h : -2048 ≤ c ∧ c ≤ 2047) :
    (sext32 (toTemperature c)).toInt = ((sext32 c).toInt - 320) * 11 := by
  have := toTemperature_range h
  rw [sext32_toInt (by omega) (by omega), sext32_code_toInt h]
  rfl

/-- The stored angle is ATAN_Q of the stored fields: QMAX fits 32 bits (42_angle.md R182). -/
theorem stored_angle_eq {a b : Int} (ha : -2048 ≤ a ∧ a ≤ 2047) (hb : -2048 ≤ b ∧ b ≤ 2047) :
    (zext32 (atanQ (toField a) (toField b))).toNat = atanQ (sext32 (toField a)).toInt (sext32 (toField b)).toInt := by
  have hlt : atanQ (toField a) (toField b) < 2 ^ 32 := (atanQ_field_le ha).trans_lt (by decide)
  rw [sext32_toField_toInt ha, sext32_toField_toInt hb, zext32, BitVec.toNat_ofNat, Nat.mod_eq_of_lt hlt]

theorem sumOfSquares_cast (a b c : Int) : (sumOfSquares a b c : Int) = a ^ 2 + b ^ 2 + c ^ 2 := by
  simp only [sumOfSquares, ← sq]
  exact Int.toNat_of_nonneg (by positivity)

/-- The stored M2 is the sum of the squares of the stored fields, which fits 64 bits (43_magsq.md R202). -/
theorem stored_m2_eq {a b c : Int} (ha : -2048 ≤ a ∧ a ≤ 2047) (hb : -2048 ≤ b ∧ b ≤ 2047) (hc : -2048 ≤ c ∧ c ≤ 2047) :
    ((zext64 (sumOfSquares (toField a) (toField b) (toField c))).toNat : Int) =
      (sext32 (toField a)).toInt ^ 2 + (sext32 (toField b)).toInt ^ 2 + (sext32 (toField c)).toInt ^ 2 := by
  have hlt : sumOfSquares (toField a) (toField b) (toField c) < 2 ^ 64 :=
    (sumOfSquares_fields_le ha hb hc).trans_lt (by norm_num)
  rw [zext64, BitVec.toNat_ofNat, Nat.mod_eq_of_lt hlt, sumOfSquares_cast, sext32_toField_toInt ha,
    sext32_toField_toInt hb, sext32_toField_toInt hc]

/-- Settles O58: while OK is 1 the banks are those of one UPDATE's codes, and each of their values fits its register;
while OK and NRDY are 0 no UPDATE has committed. -/
theorem readingMatchesTheCodes : Obligations.ReadingMatchesTheCodes := by
  refine fun s hs => ⟨fun hok => ?_, hs.no_reading⟩
  obtain ⟨k, ⟨hx, hy, hz, ht⟩, hcodes, hreading⟩ := hs.ok_reading hok
  rw [hcodes, hreading]
  exact ⟨stored_field_eq hx, stored_field_eq hy, stored_field_eq hz, stored_temperature_eq ht,
    stored_angle_eq hx hy, stored_angle_eq hy hz, stored_angle_eq hx hz, stored_m2_eq hx hy hz⟩

end Sys2Proof.Machine
end

section
/-! PROOFS. The exact angle (42_angle.md R180): its value in each of the nine rows, where it lies, and the code constants that
stand for its axis rows (R182). -/

namespace Sys2Proof

variable {x y : Int}

/-! ### The ratio y/x and its arctangent -/

/-- The arctangent lies in (0, pi/2) where x and y have the same sign. -/
theorem arctan_ratio_same (h : (0 < x ∧ 0 < y) ∨ (x < 0 ∧ y < 0)) :
    0 < Real.arctan ((y : ℝ) / x) ∧ Real.arctan ((y : ℝ) / x) < Real.pi / 2 := by
  have hr : (0 : ℝ) < (y : ℝ) / x := by
    obtain ⟨hx, hy⟩ | ⟨hx, hy⟩ := h
    · exact div_pos (Int.cast_pos.mpr hy) (Int.cast_pos.mpr hx)
    · exact div_pos_of_neg_of_neg (Int.cast_lt_zero.mpr hy) (Int.cast_lt_zero.mpr hx)
  exact ⟨Real.arctan_pos.mpr hr, Real.arctan_lt_pi_div_two _⟩

/-- The arctangent lies in (-pi/2, 0) where x and y have opposite signs. -/
theorem arctan_ratio_opposite (h : (0 < x ∧ y < 0) ∨ (x < 0 ∧ 0 < y)) :
    -(Real.pi / 2) < Real.arctan ((y : ℝ) / x) ∧ Real.arctan ((y : ℝ) / x) < 0 := by
  have hr : (y : ℝ) / x < 0 := by
    obtain ⟨hx, hy⟩ | ⟨hx, hy⟩ := h
    · exact div_neg_of_neg_of_pos (Int.cast_lt_zero.mpr hy) (Int.cast_pos.mpr hx)
    · exact div_neg_of_pos_of_neg (Int.cast_pos.mpr hy) (Int.cast_lt_zero.mpr hx)
  exact ⟨Real.neg_pi_div_two_lt_arctan _, Real.arctan_lt_zero.mpr hr⟩

/-! ### The rows -/

theorem theta_xAxis_nonneg (hx : 0 ≤ x) : theta x 0 = 0 := by simp [theta, not_lt.mpr hx]

theorem theta_xAxis_neg (hx : x < 0) : theta x 0 = Real.pi := by simp [theta, hx]

theorem theta_yAxis_pos (hy : 0 < y) : theta 0 y = Real.pi / 2 := by simp [theta, hy, hy.ne']

theorem theta_yAxis_neg (hy : y < 0) : theta 0 y = 3 * Real.pi / 2 := by simp [theta, hy.ne, not_lt.mpr hy.le]

theorem theta_firstQuadrant (hx : 0 < x) (hy : 0 < y) : theta x y = Real.arctan ((y : ℝ) / x) := by
  simp [theta, hx, hx.ne', hy, hy.ne']

theorem theta_fourthQuadrant (hx : 0 < x) (hy : y < 0) : theta x y = 2 * Real.pi + Real.arctan ((y : ℝ) / x) := by
  simp [theta, hx, hx.ne', not_lt.mpr hy.le, hy.ne]

/-- The second and the third quadrant. -/
theorem theta_left (hx : x < 0) (hy : y ≠ 0) : theta x y = Real.pi + Real.arctan ((y : ℝ) / x) := by
  simp [theta, hx.ne, not_lt.mpr hx.le, hy]

/-- In every row the angle lies in [0, 2pi). -/
theorem theta_range (x y : Int) : 0 ≤ theta x y ∧ theta x y < 2 * Real.pi := by
  have hpi := Real.pi_pos
  have hlo := Real.neg_pi_div_two_lt_arctan ((y : ℝ) / x)
  have hhi := Real.arctan_lt_pi_div_two ((y : ℝ) / x)
  rcases lt_trichotomy x 0 with hx | rfl | hx
  · obtain rfl | hy := eq_or_ne y 0
    · rw [theta_xAxis_neg hx]
      constructor <;> linarith
    · rw [theta_left hx hy]
      constructor <;> linarith
  · rcases lt_trichotomy y 0 with hy | rfl | hy
    · rw [theta_yAxis_neg hy]
      constructor <;> linarith
    · rw [theta_xAxis_nonneg le_rfl]
      constructor <;> linarith
    · rw [theta_yAxis_pos hy]
      constructor <;> linarith
  · rcases lt_trichotomy y 0 with hy | rfl | hy
    · have hu := arctan_ratio_opposite (.inl ⟨hx, hy⟩)
      rw [theta_fourthQuadrant hx hy]
      constructor <;> linarith
    · rw [theta_xAxis_nonneg hx.le]
      constructor <;> linarith
    · have hu := arctan_ratio_same (.inl ⟨hx, hy⟩)
      rw [theta_firstQuadrant hx hy]
      constructor <;> linarith

/-- Of the three sign tests exactly one succeeds. -/
theorem sign_tests (v : Int) :
    (decide (v < 0), v == 0, decide (0 < v)) ∈ [(true, false, false), (false, true, false), (false, false, true)] := by
  rcases lt_trichotomy v 0 with h | rfl | h
  · simp [h, h.ne, h.le]
  · decide
  · simp [h, h.ne', h.le]

/-- Settles O19: the value of each row, the range of its arctangent, and the nine combinations of the sign tests. -/
theorem thetaRowsAndRange : Obligations.ThetaRowsAndRange := by
  intro x y
  refine ⟨?_, ?_, fun hx hy => ⟨theta_firstQuadrant hx hy, arctan_ratio_same (.inl ⟨hx, hy⟩)⟩, ?_,
    fun hx hy => ⟨theta_left hx hy.ne', arctan_ratio_opposite (.inr ⟨hx, hy⟩)⟩, ?_,
    fun hx hy => ⟨theta_left hx hy.ne, arctan_ratio_same (.inr ⟨hx, hy⟩)⟩, ?_,
    fun hx hy => ⟨theta_fourthQuadrant hx hy, arctan_ratio_opposite (.inl ⟨hx, hy⟩)⟩,
    (theta_range x y).1, (theta_range x y).2, ?_⟩
  · rintro rfl rfl; exact theta_xAxis_nonneg le_rfl
  · rintro hx rfl; exact theta_xAxis_nonneg hx.le
  · rintro rfl hy; exact theta_yAxis_pos hy
  · rintro hx rfl; exact theta_xAxis_neg hx
  · rintro rfl hy; exact theta_yAxis_neg hy
  · have hx := sign_tests x
    have hy := sign_tests y
    generalize decide (x < 0) = xNeg, (x == 0) = xZero, decide (0 < x) = xPos at hx ⊢
    generalize decide (y < 0) = yNeg, (y == 0) = yZero, decide (0 < y) = yPos at hy ⊢
    fin_cases hx <;> fin_cases hy <;> rfl

/-! ### The constants of R182 -/

/-- QMAX is the largest code below 2pi (42_angle.md R182). -/
theorem le_qMax_iff (q : Nat) : q ≤ Machine.qMax ↔ (q : ℝ) < 2 * Real.pi * 2 ^ 29 := by
  have hlo := Real.pi_gt_d20
  have hhi := Real.pi_lt_d20
  rw [Machine.qMax]
  constructor <;> intro h
  · have : (q : ℝ) ≤ 3373259426 := by exact_mod_cast h
    linarith
  · have : (q : ℝ) < 3373259427 := by linarith
    exact Nat.le_of_lt_succ (by exact_mod_cast this)

/-- Settles O22: each constant lies within half of its product, by twenty decimals of pi. -/
theorem angleConstantsAreNearest : Obligations.AngleConstantsAreNearest := by
  have hlo := Real.pi_gt_d20
  have hhi := Real.pi_lt_d20
  refine ⟨?_, ?_, ?_, ?_, le_qMax_iff, rfl, rfl, rfl, rfl⟩
  · simp [Machine.qZero]
  all_goals
    simp only [Machine.qHalfPi, Machine.qPi, Machine.q3HalfPi]
    symm
    rw [round_eq_iff]
    constructor <;> push_cast <;> linarith

end Sys2Proof
end

section
/-! PROOFS. ATAN_Q (42_angle.md R181): both roundings of the enclosure are faithful, so every code is at most QMAX (R185); and
ANGLE, which commits it (R184). -/

namespace Sys2Proof.Machine

open Sys2Proof.Statements

variable {x y : Int}

/-! ### Faithful codes -/

theorem thetaCode_nonneg (x y : Int) : 0 ≤ thetaCode x y := mul_nonneg (theta_range x y).1 (by positivity)

/-- Rounding up, in the open quadrants: the ceiling of the enclosure's lower end. -/
theorem faithfulCode_true (hx : x ≠ 0) (hy : y ≠ 0) : (faithfulCode true x y : Int) = ⌈(scaledTheta x y).lo.val⌉ := by
  obtain ⟨hholds, hwidth⟩ := scaledTheta_spec hx hy
  have hnonneg : 0 ≤ ⌈(scaledTheta x y).lo.val⌉ := by
    have := hholds.upper
    have := thetaCode_nonneg x y
    rw [Enclosure.width] at hwidth
    exact Int.ceil_nonneg_of_neg_one_lt (by linarith)
  rw [faithfulCode, if_neg hy, if_neg hx, if_pos rfl, Frac.ceilInt_eq hholds.loDen, Int.toNat_of_nonneg hnonneg]

/-- Rounding down, in the open quadrants: the floor of the enclosure's upper end. -/
theorem faithfulCode_false (hx : x ≠ 0) (hy : y ≠ 0) : (faithfulCode false x y : Int) = ⌊(scaledTheta x y).hi.val⌋ := by
  obtain ⟨hholds, -⟩ := scaledTheta_spec hx hy
  have hnonneg : 0 ≤ ⌊(scaledTheta x y).hi.val⌋ := Int.floor_nonneg.mpr ((thetaCode_nonneg x y).trans hholds.upper)
  rw [faithfulCode, if_neg hy, if_neg hx, if_neg Bool.false_ne_true, Frac.floorInt_eq hholds.hiDen,
    Int.toNat_of_nonneg hnonneg]

/-- The floor of a bound from above that is less than 1 away is a faithful code. -/
theorem floor_of_upper_bound {t hi : ℝ} (h : t ≤ hi) (hw : hi < t + 1) : ⌊hi⌋ = ⌊t⌋ ∨ ⌊hi⌋ = ⌈t⌉ := by
  obtain hle | hlt := le_or_gt (⌊hi⌋ : ℝ) t
  · exact .inl (le_antisymm (Int.le_floor.mpr hle) (Int.floor_le_floor h))
  · refine .inr (le_antisymm ?_ (Int.ceil_le.mpr hlt.le))
    have : (⌊hi⌋ : ℝ) < ⌈t⌉ + 1 := by linarith [Int.floor_le hi, Int.le_ceil t]
    exact Int.le_of_lt_add_one (by exact_mod_cast this)

/-- The ceiling of a bound from below that is less than 1 away is a faithful code. -/
theorem ceil_of_lower_bound {t lo : ℝ} (h : lo ≤ t) (hw : t < lo + 1) : ⌈lo⌉ = ⌊t⌋ ∨ ⌈lo⌉ = ⌈t⌉ := by
  have := floor_of_upper_bound (t := -t) (hi := -lo) (by linarith) (by linarith)
  rw [Int.floor_neg, Int.floor_neg, Int.ceil_neg] at this
  omega

/-- Either rounding of the enclosure, which is far narrower than 1, is a faithful code (42_angle.md R181 part 2). -/
theorem faithfulCode_faithful (up : Bool) (hx : x ≠ 0) (hy : y ≠ 0) :
    (faithfulCode up x y : Int) = ⌊thetaCode x y⌋ ∨ (faithfulCode up x y : Int) = ⌈thetaCode x y⌉ := by
  obtain ⟨hholds, hwidth⟩ := scaledTheta_spec hx hy
  have hlo := hholds.lower
  have hhi := hholds.upper
  rw [Enclosure.width] at hwidth
  cases up with
  | true => rw [faithfulCode_true hx hy]; exact ceil_of_lower_bound hlo (by linarith)
  | false => rw [faithfulCode_false hx hy]; exact floor_of_upper_bound hhi (by linarith)

/-- The axis and degenerate rows do not depend on the rounding (42_angle.md R181 part 1). -/
theorem axisRows_faithfulCode (choice : Int → Int → Bool) :
    AxisRows (fun x y => (faithfulCode (choice x y) x y : Int)) := by
  refine ⟨rfl, fun x hx => ?_, fun y hy => ?_, fun x hx => ?_, fun y hy => ?_⟩
  · simp [faithfulCode, not_lt.mpr hx.le, qZero]
  · simp [faithfulCode, hy, hy.ne', qHalfPi]
  · simp [faithfulCode, hx, qPi]
  · simp [faithfulCode, not_lt.mpr hy.le, hy.ne, q3HalfPi]

theorem conforms_faithfulCode (choice : Int → Int → Bool) :
    Conforms (fun x y => (faithfulCode (choice x y) x y : Int)) :=
  ⟨axisRows_faithfulCode choice, fun x y hx hy => faithfulCode_faithful (choice x y) hx hy⟩

/-- Settles O20: the machine's ATAN_Q is the conforming function of one choice, and the nearest integer is a faithful code. -/
theorem atanQIsFaithful : Obligations.AtanQIsFaithful := by
  refine ⟨conforms_faithfulCode Config.atanRoundsUp, conforms_faithfulCode,
    fun f haxis hround => ⟨haxis, fun x y hx hy => ?_⟩⟩
  rw [hround x y hx hy, round_eq]
  exact floor_of_upper_bound (by linarith) (by linarith)

/-- Settles O21: where both ends of the enclosure round alike, t between them rounds as they do. -/
theorem bothFaithfulCodesAreOpen : Obligations.BothFaithfulCodesAreOpen := by
  intro x y hx hy hfloor hceil
  obtain ⟨hholds, -⟩ := scaledTheta_spec hx hy
  rw [Frac.floorInt_eq hholds.loDen, Frac.floorInt_eq hholds.hiDen] at hfloor
  rw [Frac.ceilInt_eq hholds.loDen, Frac.ceilInt_eq hholds.hiDen] at hceil
  rw [faithfulCode_false hx hy, faithfulCode_true hx hy]
  exact ⟨le_antisymm (hfloor ▸ Int.floor_le_floor hholds.lower) (Int.floor_le_floor hholds.upper),
    le_antisymm (Int.ceil_le_ceil hholds.lower) (hceil ▸ Int.ceil_le_ceil hholds.upper)⟩

/-! ### The range -/

/-- A lower bound on the arctangent that is sharp at small ratios. -/
theorem div_one_add_le_arctan {r : ℝ} (h : 0 ≤ r) : r / (1 + r) ≤ Real.arctan r := by
  have hsqrt : √(1 + r ^ 2) ≤ 1 + r := Real.sqrt_le_iff.mpr ⟨by linarith, by nlinarith⟩
  calc r / (1 + r) ≤ r / √(1 + r ^ 2) := div_le_div_of_nonneg_left h (by positivity) hsqrt
    _ = Real.sin (Real.arctan r) := (Real.sin_arctan r).symm
    _ ≤ Real.arctan r := Real.sin_le (Real.arctan_nonneg.mpr h)

/-- In the fourth quadrant a ratio of 32-bit operands is at most -2^-31, which keeps the angle away from 2pi. -/
theorem theta_fourthQuadrant_le (hx : 0 < x) (hy : y < 0) (h32 : x ≤ 2 ^ 31) :
    theta x y ≤ 2 * Real.pi - 1 / (2 ^ 31 + 1) := by
  have hratio : (y : ℝ) / x ≤ -(1 / 2 ^ 31) := by
    have hx' : (x : ℝ) ≤ 2 ^ 31 := by exact_mod_cast h32
    have hy' : (y : ℝ) ≤ -1 := by exact_mod_cast (by omega : y ≤ -1)
    rw [div_le_iff₀ (Int.cast_pos.mpr hx)]
    linarith
  have harctan := Real.arctan_mono hratio
  have hbound := div_one_add_le_arctan (r := 1 / 2 ^ 31) (by norm_num)
  rw [Real.arctan_neg] at harctan
  have heq : (1 / 2 ^ 31 : ℝ) / (1 + 1 / 2 ^ 31) = 1 / (2 ^ 31 + 1) := by norm_num
  rw [theta_fourthQuadrant hx hy]
  linarith

/-- Outside the fourth quadrant the angle is at most 3pi/2. -/
theorem theta_le_of_not_fourthQuadrant (h : ¬ (0 < x ∧ y < 0)) : theta x y ≤ 3 * Real.pi / 2 := by
  have hpi := Real.pi_pos
  have hu := Real.arctan_lt_pi_div_two ((y : ℝ) / x)
  unfold theta
  split_ifs with hy _ _ _ hx hy'
  any_goals linarith
  exact absurd ⟨hx, by omega⟩ h

theorem thetaCode_le_qMax (h32 : IsInt32 x) (y : Int) : thetaCode x y ≤ qMax := by
  have hpi := Real.pi_lt_d20
  rw [thetaCode, qMax]
  push_cast
  by_cases h : 0 < x ∧ y < 0
  · have := theta_fourthQuadrant_le h.1 h.2 h32.2.le
    linarith
  · have := theta_le_of_not_fourthQuadrant h
    linarith

/-- No clamp is needed: both faithful codes of an exact code up to QMAX are at most QMAX (42_angle.md R185). -/
theorem atanQ_le_qMax (h32 : IsInt32 x) (y : Int) : atanQ x y ≤ qMax := by
  by_cases haxis : x = 0 ∨ y = 0
  · exact faithfulCode_le_qMax _ fun hx hy => (haxis.elim hx hy).elim
  · obtain ⟨hx, hy⟩ := not_or.mp haxis
    have hceil : ⌈thetaCode x y⌉ ≤ (qMax : Int) := Int.ceil_le.mpr (by exact_mod_cast thetaCode_le_qMax h32 y)
    have hfloor := Int.floor_le_ceil (thetaCode x y)
    have hcode := faithfulCode_faithful (Config.atanRoundsUp x y) hx hy
    rw [← atanQ] at hcode
    omega

theorem isInt32_toInt (w : Word) : IsInt32 w.toInt := ⟨w.le_toInt, w.toInt_lt⟩

/-- Settles O23: the operands of ANGLE are words, the angles of a reading those of fields, and QMAX is below 2pi by R182. -/
theorem everyAngleIsBelowTwoPi : Obligations.EveryAngleIsBelowTwoPi := by
  refine ⟨fun x y hx _ => atanQ_le_qMax hx y, fun s t h => ?_, fun c hc => ?_, ?_⟩
  · obtain rfl := Host.Outcome.next.inj ((exec_angle s).symm.trans h)
    exact (zext64_toNat_le _).trans (atanQ_le_qMax (isInt32_toInt s.cap.a) _)
  · have hangles := (readingOf_inRange hc).angles
    simpa [qMax] using hangles
  · rw [div_lt_iff₀ (by positivity)]
    exact (le_qMax_iff qMax).mp le_rfl

/-! ### ANGLE -/

theorem bothZero_iff (x y : Int) : bothZero x y = true ↔ x = 0 ∧ y = 0 := by simp [bothZero]

/-- The masks of ANGLE's commit: bits 1 to 4 are kept, BUSY, DEG1 and DEG2 are cleared, DEG0 is bit 5 (10_state.md R43). -/
theorem putFlag_busy_putDeg (d0 : Bool) (st : Byte) :
    putFlag .busy false (putDeg d0 false false st) = (st &&& 0x1E#8) ||| (if d0 then 0x20#8 else 0x00#8) := by
  refine status_ext fun f => ?_
  rw [getFlag_putFlag, getFlag_putDeg]
  cases d0 <;> cases f <;> simp [getFlag, flagBit]

/-- Settles O18, from the masks of its commit and the range of ATAN_Q. -/
theorem angleResult : Obligations.AngleResult := by
  refine ⟨decode_encode .angle, fun s => ⟨⟨0, ?_⟩, atanQ_le_qMax (isInt32_toInt s.cap.a) _⟩⟩
  rw [exec_angle, ← if_congr (bothZero_iff s.cap.a.toInt s.cap.b.toInt) rfl rfl, ← putFlag_busy_putDeg]
  rfl

end Sys2Proof.Machine
end

section
/-! PROOFS. MAGSQ (43_magsq.md): the sum of three squares of words and the commit of an unsigned value. -/

namespace Sys2Proof.Machine

open Sys2Proof.Statements

/-- A commit of an unsigned value writes R, clears BUSY and the word in flight, and nothing else (10_state.md R47). -/
theorem commitUnsigned_eq_onlyR (s : State) (v : Nat) : s.commitUnsigned v = onlyR s (BitVec.ofNat 64 v) 0 := rfl

/-- R holds every value below 2^64 without wrapping. -/
theorem zext64_toNat_eq {n : Nat} (h : n < 2 ^ 64) : (zext64 n).toNat = n := by
  rw [zext64, BitVec.toNat_ofNat, Nat.mod_eq_of_lt h]

/-- The largest square of an int32 is that of -2^31. -/
theorem sq_le_of_isInt32 {v : Int} (h : IsInt32 v) : v ^ 2 ≤ 2 ^ 62 :=
  calc v ^ 2 ≤ (2 ^ 31) ^ 2 := sq_le_sq' h.1 h.2.le
    _ = 2 ^ 62 := by norm_num

/-- 43_magsq.md R201: three squares of at most 2^62 each. -/
theorem sumOfSquares_le {a b c : Int} (ha : IsInt32 a) (hb : IsInt32 b) (hc : IsInt32 c) :
    sumOfSquares a b c ≤ 3 * 2 ^ 62 := by
  have hsum : (sumOfSquares a b c : Int) ≤ 3 * 2 ^ 62 := by
    rw [sumOfSquares_cast]
    linarith [sq_le_of_isInt32 ha, sq_le_of_isInt32 hb, sq_le_of_isInt32 hc]
  exact_mod_cast hsum

/-- Settles O25: the sum of squares is exact, and its bound is below 2^64, so R holds it. -/
theorem magsqResult : Obligations.MagsqResult := by
  refine ⟨decode_encode .magsq, fun s => ⟨sumOfSquares s.intA s.intB s.intC, ?_, ?_⟩⟩
  · simp only [sumOfSquares_cast, sq]
    rfl
  · have hle : sumOfSquares s.intA s.intB s.intC ≤ 3 * 2 ^ 62 :=
      sumOfSquares_le (isInt32_toInt s.cap.a) (isInt32_toInt s.cap.b) (isInt32_toInt s.cap.c)
    exact ⟨hle, zext64_toNat_eq (hle.trans_lt (by norm_num)), 0, by rw [exec_magsq, commitUnsigned_eq_onlyR]⟩

end Sys2Proof.Machine
end

section
/-! PROOFS. The exact angle does not depend on the scale of its operands (42_angle.md R187), so the angles of the fields are
those of the codes (44_update_control.md R215). -/

namespace Sys2Proof

/-- A positive factor of both operands keeps every sign test and the ratio. -/
theorem theta_mul_left {k : Int} (hk : 0 < k) (x y : Int) : theta (k * x) (k * y) = theta x y := by
  have hratio : ((k * y : Int) : ℝ) / ((k * x : Int) : ℝ) = (y : ℝ) / x := by
    push_cast
    exact mul_div_mul_left _ _ (Int.cast_ne_zero.mpr hk.ne')
  have hneg : k * x < 0 ↔ x < 0 := by
    rw [← not_le, ← not_le, mul_nonneg_iff_of_pos_left hk]
  simp only [theta, hratio, mul_eq_zero, hk.ne', false_or, mul_pos_iff_of_pos_left hk, hneg]

namespace Machine

theorem thetaCode_toField (x y : Int) : thetaCode (toField x) (toField y) = thetaCode x y := by
  rw [toField, toField, mul_comm x, mul_comm y, thetaCode, theta_mul_left (by decide), thetaCode]

theorem toField_ne_zero {c : Int} (h : c ≠ 0) : toField c ≠ 0 := mul_ne_zero h (by decide)

/-- A stored angle is a faithful code of the angle of the codes (42_angle.md R181 part 2). -/
theorem stored_angle_faithful {a b : Int} (ha : -2048 ≤ a ∧ a ≤ 2047) (hb : -2048 ≤ b ∧ b ≤ 2047)
    (ha0 : a ≠ 0) (hb0 : b ≠ 0) :
    ((zext32 (atanQ (toField a) (toField b))).toNat : Int) = ⌊thetaCode a b⌋ ∨
    ((zext32 (atanQ (toField a) (toField b))).toNat : Int) = ⌈thetaCode a b⌉ := by
  rw [stored_angle_eq ha hb, sext32_toField_toInt ha, sext32_toField_toInt hb, ← thetaCode_toField]
  exact faithfulCode_faithful _ (toField_ne_zero ha0) (toField_ne_zero hb0)

/-- Settles O24, from the scale invariance of theta and the faithfulness of ATAN_Q on the fields. -/
theorem planarAnglesAreThoseOfTheCodes : Obligations.PlanarAnglesAreThoseOfTheCodes := by
  refine ⟨fun k x y hk => theta_mul_left hk x y, fun c hc => ?_⟩
  obtain ⟨hx, hy, hz, -⟩ := hc
  exact ⟨stored_angle_faithful hx hy, stored_angle_faithful hy hz, stored_angle_faithful hx hz⟩

end Machine

end Sys2Proof
end

section
/-! PROOFS. NOP and UPDATE (44_update_control.md): what their commits write, and what it depends on. -/

namespace Sys2Proof.Machine

open Sys2Proof.Statements

variable {s t : State}

/-! ### NOP -/

/-- The mask of BUSY (10_state.md R43). -/
theorem complete_eq_masked (s : State) :
    s.complete = { s with status := s.status &&& 0xFE#8, inflight := none, latency := 0 } := rfl

/-- A word written to CMD while a command runs raises OVR, bit 4 of STATUS, and does nothing else (60_exceptions.md R232). -/
theorem hostWrite_cmd_of_busy (h : s.flag .busy = true) (w : Word) :
    hostWrite 0x00#6 w s = { s with status := s.status ||| 0x10#8 } :=
  (hostWrite_regIndex .cmd w s).trans (if_pos h)

/-- Settles O26: NOP is the completion alone, and the drop of its word is that of any word. -/
theorem nopResult : Obligations.NopResult :=
  ⟨decode_encode .nop, fun s => ⟨0, by rw [exec_nop, complete_eq_masked]⟩, fun _ h => hostWrite_cmd_of_busy h _⟩

/-! ### The validity check (44_update_control.md R211) -/

theorem notReady_eq_true_iff (raw : RawBlock) : notReady raw = true ↔ raw.raw3 &&& 0x03#8 ≠ 0 := by
  rw [← Bool.not_eq_false, notReady_eq_false_iff]

theorem notReady_iff_toNat (raw : RawBlock) : notReady raw = true ↔ raw.raw3.toNat % 4 ≠ 0 := by
  have hmask : (raw.raw3 &&& 0x03#8).toNat = raw.raw3.toNat % 4 := Nat.and_two_pow_sub_one_eq_mod _ 2
  rw [notReady_eq_true_iff, ← hmask, Ne, ← BitVec.toNat_inj]
  rfl

theorem lowBits_eq_zero_iff (b : Byte) : b &&& 0x03#8 = 0 ↔ b.getLsbD 0 = false ∧ b.getLsbD 1 = false := by
  revert b; decide

/-! ### The two branches -/

/-- What UPDATE can do, by the captured RAW3[1:0] (44_update_control.md R212). -/
theorem exec_update_cases (h : exec .update s = .next t) :
    (notReady s.cap.raw = true ∧ t = (s.setOutcome false).complete) ∨
    (notReady s.cap.raw = false ∧ t = (s.writeReading (unpackRaw s.cap.raw)).complete) := by
  cases hn : notReady s.cap.raw with
  | true => exact .inl ⟨rfl, (Host.Outcome.next.inj ((exec_update_notReady s hn).symm.trans h)).symm⟩
  | false => exact .inr ⟨rfl, (Host.Outcome.next.inj ((exec_update_ready s hn).symm.trans h)).symm⟩

/-- OK and NRDY are the outcome of the check (44_update_control.md R211). -/
theorem exec_update_outcome (h : exec .update s = .next t) :
    t.flag .ok = !notReady s.cap.raw ∧ t.flag .nrdy = notReady s.cap.raw := by
  obtain ⟨hn, rfl⟩ | ⟨hn, rfl⟩ := exec_update_cases h <;> rw [hn] <;> simp

/-- DEG0, DEG1 and DEG2 of a ready UPDATE are the zero tests of the three operand pairs (44_update_control.md R212). -/
theorem exec_update_ready_deg (h : exec .update s = .next t) (hr : notReady s.cap.raw = false) :
    t.flag .deg0 = bothZero (toField (unpackRaw s.cap.raw).x) (toField (unpackRaw s.cap.raw).y) ∧
    t.flag .deg1 = bothZero (toField (unpackRaw s.cap.raw).y) (toField (unpackRaw s.cap.raw).z) ∧
    t.flag .deg2 = bothZero (toField (unpackRaw s.cap.raw).x) (toField (unpackRaw s.cap.raw).z) := by
  rw [exec_update_ready s hr] at h
  cases h
  simp

/-! ### The masks of STATUS (10_state.md R43) -/

/-- Not ready: NRDY is set, OK and BUSY are cleared. -/
theorem putFlag_busy_putOutcome_false (st : Byte) :
    putFlag .busy false (putOutcome false st) = (st &&& 0xF8#8) ||| 0x04#8 := by
  refine status_ext fun f => ?_
  rw [getFlag_putFlag, getFlag_putOutcome]
  cases f <;> simp [getFlag, flagBit]

theorem getFlag_or (f : Flag) (st st' : Byte) : getFlag f (st ||| st') = (getFlag f st || getFlag f st') :=
  BitVec.getLsbD_or

theorem getFlag_mask_if (f : Flag) (p : Bool) (m : Byte) :
    getFlag f (if p then m else 0x00#8) = (p && getFlag f m) := by
  cases p <;> simp

/-- Ready: ILL and OVR are kept, OK is set, NRDY and BUSY are cleared, DEG0, DEG1 and DEG2 are bits 5, 6 and 7. -/
theorem putFlag_busy_putOutcome_putDeg (d0 d1 d2 : Bool) (st : Byte) :
    putFlag .busy false (putOutcome true (putDeg d0 d1 d2 st)) =
      (st &&& 0x18#8) ||| 0x02#8 ||| (if d0 then 0x20#8 else 0x00#8) ||| (if d1 then 0x40#8 else 0x00#8) |||
        (if d2 then 0x80#8 else 0x00#8) := by
  refine status_ext fun f => ?_
  simp only [getFlag_putFlag, getFlag_putOutcome, getFlag_putDeg, getFlag_or, getFlag_mask_if]
  cases f <;> simp [getFlag, flagBit]

/-! ### The result -/

theorem notReady_complete_eq (s : State) : (s.setOutcome false).complete =
    { s with status := (s.status &&& 0xF8#8) ||| 0x04#8, inflight := none, latency := 0 } := by
  rw [← putFlag_busy_putOutcome_false]
  rfl

theorem ready_complete_eq (s : State) (c : AxisCodes) : (s.writeReading c).complete =
    { s with
      codes := codeBankOf c
      reading := readingOf c
      status := (s.status &&& 0x18#8) ||| 0x02#8 ||| (if toField c.x = 0 ∧ toField c.y = 0 then 0x20#8 else 0x00#8) |||
        (if toField c.y = 0 ∧ toField c.z = 0 then 0x40#8 else 0x00#8) |||
        (if toField c.x = 0 ∧ toField c.z = 0 then 0x80#8 else 0x00#8)
      inflight := none
      latency := 0 } := by
  simp only [← bothZero_iff, ← putFlag_busy_putOutcome_putDeg]
  rfl

/-- Settles O27: by the check, with the codes of the unpack table and the masks of STATUS. -/
theorem updateResult : Obligations.UpdateResult := by
  refine ⟨decode_encode .update, fun s => ?_⟩
  intro w cx cy cz ct bx bY bz
  have hcodes : unpackRaw s.cap.raw = ⟨cx, cy, cz, ct⟩ := perAxisUnpackTable w
  refine ⟨sumOfSquares bx bY bz, 0, by simp only [sumOfSquares_cast, sq], ?_⟩
  cases hn : notReady s.cap.raw with
  | true => rw [if_pos ((notReady_iff_toNat w).mp hn), exec_update_notReady s hn, notReady_complete_eq]
  | false =>
    have hlow := mt (notReady_iff_toNat w).mpr (Bool.eq_false_iff.mp hn)
    rw [if_neg hlow, exec_update_ready s hn, ready_complete_eq, hcodes]
    rfl

/-! ### What it depends on -/

/-- A change within RAW3[3:2] is not seen through a mask that leaves those bits out. -/
theorem xor_and_eq_of_outside {b m mask : Byte} (hm : m &&& 0xF3#8 = 0) (hmask : 0xF3#8 &&& mask = mask) :
    (b ^^^ m) &&& mask = b &&& mask := by
  have hzero : m &&& mask = 0#8 := by
    rw [← hmask, ← BitVec.and_assoc, hm]
    exact BitVec.zero_and
  have hdistrib : (b ^^^ m) &&& mask = (b &&& mask) ^^^ (m &&& mask) := BitVec.eq_of_toNat_eq Nat.and_xor_distrib_right
  rw [hdistrib, hzero, BitVec.xor_zero]

theorem notReady_flip (raw : RawBlock) {m : Byte} (hm : m &&& 0xF3#8 = 0) :
    notReady { raw with raw3 := raw.raw3 ^^^ m } = notReady raw := by
  simp only [notReady, Config.statusMask, xor_and_eq_of_outside hm (by decide : 0xF3#8 &&& 0x03#8 = 0x03#8)]

theorem unpackRaw_flip (raw : RawBlock) {m : Byte} (hm : m &&& 0xF3#8 = 0) :
    unpackRaw { raw with raw3 := raw.raw3 ^^^ m } = unpackRaw raw := by
  simp only [unpackRaw, tempComposite, Config.tempHiMask, xor_and_eq_of_outside hm (by decide : 0xF3#8 &&& 0xF0#8 = 0xF0#8)]

/-- The captured block enters UPDATE by the check and the unpacked codes alone. -/
theorem exec_update_congr_raw {raw : RawBlock} {s' t' : State} (hs' : s' = { s with cap := { s.cap with raw := raw } })
    (hready : notReady raw = notReady s.cap.raw) (hcodes : unpackRaw raw = unpackRaw s.cap.raw)
    (h : exec .update s = .next t) (h' : exec .update s' = .next t') :
    t'.codes = t.codes ∧ t'.reading = t.reading ∧ t'.status = t.status ∧ t'.r = t.r := by
  subst hs'
  cases hn : notReady s.cap.raw with
  | true =>
    rw [exec_update_notReady s hn] at h
    rw [exec_update_notReady _ (hready.trans hn)] at h'
    cases h; cases h'
    exact ⟨rfl, rfl, rfl, rfl⟩
  | false =>
    rw [exec_update_ready s hn] at h
    rw [exec_update_ready _ (hready.trans hn)] at h'
    cases h; cases h'
    simp [hcodes]

/-- Settles O28: the outcome is the check, and neither the check's mask nor the temperature's has bits 3 and 2. -/
theorem onlyTheTwoLowBitsDecideReadiness : Obligations.OnlyTheTwoLowBitsDecideReadiness := by
  refine ⟨fun s t h => ?_, fun s s' t t' m hm hs' h h' => ?_⟩
  · obtain ⟨hok, hnrdy⟩ := exec_update_outcome h
    have hbits := (notReady_eq_false_iff s.cap.raw).trans (lowBits_eq_zero_iff _)
    rw [hok, hnrdy, Bool.not_eq_true', hbits, ← Bool.not_eq_false, hbits, not_and_or, Bool.not_eq_false, Bool.not_eq_false]
    exact ⟨Iff.rfl, Iff.rfl⟩
  · exact exec_update_congr_raw hs' (notReady_flip _ hm) (unpackRaw_flip _ hm) h h'

/-! ### All or nothing (44_update_control.md R213, R214) -/

theorem sext32_toField_eq_zero_iff {c : Int} (h : -2048 ≤ c ∧ c ≤ 2047) : sext32 (toField c) = 0 ↔ toField c = 0 := by
  rw [← BitVec.toInt_inj, sext32_toField_toInt h]
  rfl

/-- The zero test of two fields is that of the registers that hold them. -/
theorem bothZero_toField_iff {a b : Int} (ha : -2048 ≤ a ∧ a ≤ 2047) (hb : -2048 ≤ b ∧ b ≤ 2047) :
    bothZero (toField a) (toField b) = true ↔ sext32 (toField a) = 0 ∧ sext32 (toField b) = 0 := by
  rw [bothZero_iff, sext32_toField_eq_zero_iff ha, sext32_toField_eq_zero_iff hb]

/-- An UPDATE of a block that is not ready touches no register but STATUS. -/
theorem hostRead_notReady_complete {idx : Index} (hidx : idx ≠ 0x01#6) (s : State) :
    hostRead idx (s.setOutcome false).complete = hostRead idx s := by
  refine hostRead_congr fun r hr => ?_
  cases r
  case status => exact absurd hr hidx
  all_goals rfl

/-- Settles O29: each branch by its own lemmas, the zero tests of the fields read as those of their registers. -/
theorem updateIsAllOrNothing : Obligations.UpdateIsAllOrNothing := by
  refine fun s t h => ⟨fun hlow => ?_, fun hlow => ?_⟩
  · have hr := (notReady_eq_false_iff _).mpr hlow
    obtain ⟨hcodes, hreading, hok, hnrdy⟩ := exec_update_ready_writes h hr
    obtain ⟨hd0, hd1, hd2⟩ := exec_update_ready_deg h hr
    obtain ⟨hx, hy, hz, -⟩ := unpackRaw_inRange s.cap.raw
    rw [hreading, hd0, hd1, hd2]
    exact ⟨hok, hnrdy, hcodes, rfl, exec_keeps_r h (.inr rfl), bothZero_toField_iff hx hy, bothZero_toField_iff hy hz,
      bothZero_toField_iff hx hz⟩
  · have hn := (notReady_eq_true_iff _).mpr hlow
    rw [exec_update_notReady s hn] at h
    cases h
    refine ⟨by simp, by simp, fun idx hidx => hostRead_notReady_complete hidx s, rfl, rfl, fun f hf => ?_⟩
    fin_cases hf <;> simp

/-! ### Determinism and idempotence (44_update_control.md R216) -/

/-- States that differ in STATUS alone, and there in no field, are equal. -/
theorem State.eq_of_flags {st : Byte} (hst : t = { s with status := st }) (h : ∀ f, t.flag f = s.flag f) : t = s := by
  subst hst
  rw [show st = s.status from status_ext h]

theorem notReady_complete_idem (s : State) :
    ((s.setOutcome false).complete.setOutcome false).complete = (s.setOutcome false).complete :=
  State.eq_of_flags rfl fun f => by cases f <;> simp

theorem ready_complete_idem (s : State) (c : AxisCodes) :
    ((s.writeReading c).complete.writeReading c).complete = (s.writeReading c).complete :=
  State.eq_of_flags rfl fun f => by cases f <;> simp

theorem exec_update_idem (h : exec .update s = .next t) : exec .update t = .next t := by
  obtain ⟨hn, rfl⟩ | ⟨hn, rfl⟩ := exec_update_cases h
  · rw [exec_update_notReady (s.setOutcome false).complete hn, notReady_complete_idem]
  · rw [exec_update_ready (s.writeReading (unpackRaw s.cap.raw)).complete hn, State.complete_cap, State.writeReading_cap,
      ready_complete_idem]

/-- Settles O30: each written value is a function of the captured block, which a commit keeps. -/
theorem updateIsDeterministicAndIdempotent : Obligations.UpdateIsDeterministicAndIdempotent := by
  refine ⟨fun s s' t t' hraw h h' => ?_, fun s t h => exec_update_idem h⟩
  obtain ⟨hok, hnrdy⟩ := exec_update_outcome h
  obtain ⟨hok', hnrdy'⟩ := exec_update_outcome h'
  refine ⟨by rw [hok, hok', hraw], by rw [hnrdy, hnrdy', hraw], fun hlow => ?_⟩
  have hr := (notReady_eq_false_iff _).mpr hlow
  obtain ⟨hcodes, hreading, -, -⟩ := exec_update_ready_writes h hr
  obtain ⟨hcodes', hreading', -, -⟩ := exec_update_ready_writes h' (hraw ▸ hr)
  obtain ⟨hd0, hd1, hd2⟩ := exec_update_ready_deg h hr
  obtain ⟨hd0', hd1', hd2'⟩ := exec_update_ready_deg h' (hraw ▸ hr)
  refine ⟨by rw [hcodes, hcodes', hraw], by rw [hreading, hreading', hraw], fun f hf => ?_⟩
  fin_cases hf
  · rw [hd0, hd0', hraw]
  · rw [hd1, hd1', hraw]
  · rw [hd2, hd2', hraw]

end Sys2Proof.Machine
end

section
/-! PROOFS. No command faults (60_exceptions.md R234, R237): every commit completes, and a placed command runs at once. -/

namespace Sys2Proof.Machine

/-- Settles O32: UPDATE by its validity check, every other command by its one meaning. -/
theorem everyCommandCompletes : Obligations.EveryCommandCompletes := by
  intro i s
  cases i
  case update =>
    cases hr : notReady s.cap.raw with
    | true => exact ⟨_, exec_update_notReady s hr⟩
    | false => exact ⟨_, exec_update_ready s hr⟩
  all_goals exact ⟨_, rfl⟩

/-- A table word of full width is the word itself. -/
theorem tableWord_toNat (w : Word) : tableWord 32 w.toNat = w := by
  rw [tableWord, Nat.mod_eq_of_lt w.isLt, BitVec.ofNat_toNat, BitVec.setWidth_eq]

/-- Settles O6: the word placed is the command's, which is due in the next step. -/
theorem placedCommandIsAcceptedAndRuns : Obligations.PlacedCommandIsAcceptedAndRuns := by
  intro s i
  rw [State.withFetchWord, tableWord_toNat]
  exact ⟨rfl, stepRunsTheCommandInFlight _ _ i rfl rfl (decode_encode i) le_rfl⟩

end Sys2Proof.Machine
end

section
/-! PROOFS. The command protocol (60_exceptions.md R230 to R233) and the write-1-to-clear of the errors (R238). -/

namespace Sys2Proof.Machine

open Sys2Proof.Statements

variable {s t : State} {i : Instr}

/-! ### A word written to CMD -/

/-- An illegal word raises ILL, bit 3 of STATUS, and does nothing else (60_exceptions.md R231). -/
theorem hostWrite_cmd_of_illegal (hb : s.flag .busy = false) {w : Word} (h : ¬ Legal w) :
    hostWrite 0x00#6 w s = { s with status := s.status ||| 0x08#8 } := by
  refine (hostWrite_regIndex .cmd w s).trans ?_
  obtain ⟨hb', -⟩ | ⟨-, -, hw⟩ | ⟨-, hd, -⟩ := writeCmd_cases w s
  · simp [hb] at hb'
  · exact hw
  · exact absurd ((decodeAcceptsExactlyTheLegalWords.1 w).mp hd) h

/-- A legal word is accepted (60_exceptions.md R233). -/
theorem hostWrite_cmd_of_legal (hb : s.flag .busy = false) {w : Word} (h : Legal w) :
    hostWrite 0x00#6 w s = s.accept w := by
  refine (hostWrite_regIndex .cmd w s).trans ?_
  obtain ⟨i, hd⟩ := decode_of_legal h
  obtain ⟨hb', -⟩ | ⟨-, hill, -⟩ | ⟨-, -, hw⟩ := writeCmd_cases w s
  · simp [hb] at hb'
  · exact absurd hd (hill i)
  · exact hw

/-- Settles O36: the drop, the refusal and the acceptance. -/
theorem commandProtocol : Obligations.CommandProtocol := fun s w =>
  ⟨fun hb => hostWrite_cmd_of_busy hb w, fun hb h => hostWrite_cmd_of_illegal hb h, fun hb h =>
    ⟨Config.latency w s.acceptCount, s.acceptCount + 1, Nat.succ_pos _, hostWrite_cmd_of_legal hb h⟩⟩

/-! ### The errors -/

/-- The mask of the write-1-to-clear: of the bits written, 3 and 4 count (10_state.md R43). -/
theorem clearErrors_eq_masked (s : State) (v : Word) :
    s.clearErrors v = { s with status := s.status &&& ~~~(v.setWidth 8 &&& 0x18#8) } := by
  refine State.eq_of_flags rfl fun f => ?_
  rw [State.clearErrors_flag]
  cases f <;> simp [State.flag, getFlag, flagBit]

/-- Raising an error whose flag is 1 changes nothing. -/
theorem raise_of_flag {k : Cause} (h : s.flag (causeFlag k) = true) : s.raise k = s :=
  State.eq_of_flags rfl fun f => by
    rw [State.raise_flag]
    split_ifs with hf
    · rw [hf, h]
    · rfl

theorem raise_flag_self (s : State) (k : Cause) : (s.raise k).flag (causeFlag k) = true := by
  simp

/-- Settles O37: the mask of the write, the flag that a raise finds at 1, and the zero STATUS of reset. -/
theorem statusIsWriteOneToClear : Obligations.StatusIsWriteOneToClear :=
  ⟨fun s v => (hostWrite_regIndex .status v s).trans (clearErrors_eq_masked s v),
    fun s k => ⟨raise_of_flag (raise_flag_self s k), raise_of_flag⟩, getFlag_zero⟩

/-! ### Either side of a commit (60_exceptions.md R232, R236) -/

/-- The completion clears BUSY, which is no error's flag, so it commutes with raising one. -/
theorem complete_raise (s : State) (k : Cause) : (s.raise k).complete = s.complete.raise k := by
  have h := putFlag_comm (causeFlag_ne_busy k) true false s.status
  simp only [State.complete, State.raise, State.setFlag, h]

theorem setDeg_raise (s : State) (k : Cause) (d0 d1 d2 : Bool) :
    (s.raise k).setDeg d0 d1 d2 = (s.setDeg d0 d1 d2).raise k :=
  State.eq_of_flags rfl fun f => by cases k <;> cases f <;> simp [causeFlag]

theorem setOutcome_raise (s : State) (k : Cause) (ok : Bool) : (s.raise k).setOutcome ok = (s.setOutcome ok).raise k :=
  State.eq_of_flags rfl fun f => by cases k <;> cases f <;> simp [causeFlag]

theorem writeReading_raise (s : State) (k : Cause) (c : AxisCodes) :
    (s.raise k).writeReading c = (s.writeReading c).raise k :=
  State.eq_of_flags rfl fun f => by cases k <;> cases f <;> simp [causeFlag]

/-- A command runs as it would have when an error is raised before its commit. -/
theorem exec_raise (h : exec i s = .next t) (k : Cause) : exec i (s.raise k) = .next (t.raise k) := by
  cases i
  case update =>
    obtain ⟨hn, rfl⟩ | ⟨hn, rfl⟩ := exec_update_cases h
    · rw [exec_update_notReady (s.raise k) hn, setOutcome_raise, complete_raise]
    · rw [exec_update_ready (s.raise k) hn, writeReading_raise, complete_raise, State.raise_cap]
  case angle =>
    cases h
    rw [exec_angle, setDeg_raise]
    exact congrArg _ (complete_raise (State.writeR _ _) k)
  case nop => cases h; exact congrArg _ (complete_raise s k)
  all_goals
    cases h
    exact congrArg _ (complete_raise (s.writeR _) k)

/-- Settles O44: before the commit the word raises OVR, which the commit leaves alone; after it, BUSY is 0 and the word is
accepted. -/
theorem commandWriteEitherSideOfACommit : Obligations.CommandWriteEitherSideOfACommit := by
  intro s t i w hb h
  refine ⟨?_, fun hw => ?_⟩
  · rw [hostWrite_cmd_of_busy hb w]
    exact exec_raise h .ovr
  · rw [hostWrite_cmd_of_legal (exec_commitFrame h).busy hw]
    exact ⟨rfl, by simp, by simp, rfl⟩

end Sys2Proof.Machine
end

section
/-! PROOFS. The block goes on from every state that meets the invariant, and a command in flight commits when its latency has
run down (60_exceptions.md R234). -/

namespace Sys2Proof.Machine

open Sys2Proof.Statements

variable {s t u : State} {i : Instr} {n : Nat}

/-! ### Progress -/

/-- A served statement is executed: only a bridge access can be refused (20_memory.md R87). -/
theorem execStmt_of_served {st : HostStmt} (h : st.Served) (s : State) : ∃ t, execStmt st s = .next t := by
  cases st with
  | access acc => cases acc <;> exact ⟨_, rfl⟩
  | busWrite addr size v =>
    obtain ⟨idx, hidx⟩ := bridgeIndex_served h
    exact ⟨stepWrite idx v s, by rw [execStmt, hidx]⟩
  | busRead addr size =>
    obtain ⟨idx, hidx⟩ := bridgeIndex_served h
    exact ⟨stepRead idx s, by rw [execStmt, hidx]⟩
  | bnz | b | bBusyo | rst => exact ⟨_, rfl⟩

theorem hostStep_of_served (h : s.HostServed) : ∃ t, hostStep s = .next t := by
  unfold hostStep
  split
  · next st hst => exact execStmt_of_served (h st hst) s
  · exact ⟨_, rfl⟩

/-- Settles O55: the host's statement is served wherever the host moves, and the word of a commit is a command. -/
theorem theBlockNeverStops : Obligations.TheBlockNeverStops := by
  intro s hinv hserved
  unfold State.Goes
  cases hr : s.rst with
  | true => rw [step_reset hr]; exact hostStep_of_served (s := s.resetBlock) hserved
  | false =>
    cases hi : s.inflight with
    | none => rw [step_idle hr hi]; exact hostStep_of_served hserved
    | some w =>
      by_cases hl : s.latency ≤ 1
      · obtain ⟨i, hd⟩ := hinv.legal w hi
        rw [stepRunsTheCommandInFlight s w i hr hi hd hl]
        exact everyCommandCompletes i s
      · rw [step_busy hr hi (Nat.not_le.mp hl)]
        exact hostStep_of_served (s := s.tick) hserved

/-! ### A command in flight -/

/-- The command `i` is in flight, and the host neither raises RST nor asks for a refused access. -/
structure Pending (i : Instr) (s : State) : Prop where
  inv : s.Inv
  rst : s.rst = false
  inflight : s.inflight = some (encode i)
  quiet : ∀ st ∈ s.host.program, Quiet st

theorem Pending.rstStaysLow (h : Pending i s) : s.RstStaysLow := ⟨h.rst, fun st hst => (h.quiet st hst).2⟩

theorem Pending.goes (h : Pending i s) : s.Goes :=
  theBlockNeverStops s h.inv fun st hst => (h.quiet st (List.mem_of_getElem? hst)).1

/-- While BUSY is 1 the host cannot touch the latency counter but by RST. -/
theorem hostStep_keeps_latency (hs : s.RstStaysLow) (hb : s.flag .busy = true) (h : hostStep s = .next t) :
    t.latency = s.latency := by
  obtain ⟨idx, v, st, -, -, rfl⟩ | ⟨d, p, rfl⟩ | ⟨level, hst, rfl⟩ := hostStep_next h
  · rw [stepWrite, portWrite_run idx v hs.rst]
    obtain ⟨-, hlat, -⟩ := hostWrite_busy idx v s hb
    exact hlat
  · rfl
  · cases level with
    | false => rfl
    | true => exact absurd rfl (hs.quiet _ (List.mem_of_getElem? hst))

/-- A step that is not yet the commit takes one from the latency counter. -/
theorem Pending.step_latency (h : Pending i s) (hl : 1 < s.latency) (hstep : step s = .next t) :
    t.latency = s.latency - 1 := by
  have hs := h.rstStaysLow
  have hb : s.flag .busy = true := by rw [h.inv.busy_iff, h.inflight]; rfl
  rw [step_busy h.rst h.inflight hl] at hstep
  exact hostStep_keeps_latency (s := s.tick) ⟨hs.rst, hs.quiet⟩ hb hstep

/-- Such a step leaves the command pending, with its operands and every result (10_state.md R46, R47). -/
theorem Pending.before_commit (h : Pending i s) (hl : 1 < s.latency) (hstep : step s = .next t) :
    Pending i t ∧ t.cap = s.cap ∧ SameResults s t := by
  have hs := h.rstStaysLow
  have hrst := (hs.after_step hstep).rst
  have hlat := h.step_latency hl hstep
  obtain hcommit | ⟨hi, hcap⟩ := step_commits_or_keeps_command h.inv hs h.inflight hstep
  · have := (exec_commitFrame hcommit).latency
    omega
  · exact ⟨⟨everyStepKeepsTheInvariant s t h.inv hstep, hrst, hi, by rw [step_keeps_program hstep]; exact h.quiet⟩, hcap,
      resultsChangeOnlyAtCommit s t ⟨h.rst, .inr hl⟩ hstep hrst⟩

/-- A run is one step longer by the step at its end. -/
theorem run_succ_of_run (hrun : core.run n s = .next u) (hstep : step u = .next t) : core.run (n + 1) s = .next t := by
  induction n generalizing s with
  | zero =>
    obtain rfl := run_zero_eq_next_iff.mp hrun
    exact run_succ_of_step 0 hstep
  | succ n ih =>
    obtain ⟨s', hs', hrest⟩ := exists_step_of_run_succ hrun
    exact (run_succ_of_step (n + 1) hs').trans (ih hrest)

/-- The latency counter runs down to the commit, by induction on what it holds beyond the commit's own step. -/
theorem Pending.reaches_commit (h : Pending i s) (hn : s.latency = n + 1) :
    ∃ u, core.run n s = .next u ∧ Pending i u ∧ u.latency = 1 ∧ u.cap = s.cap ∧ SameResults s u := by
  induction n generalizing s with
  | zero => exact ⟨s, rfl, h, hn, rfl, sameResults_refl s⟩
  | succ n ih =>
    have hl : 1 < s.latency := by omega
    obtain ⟨s', hstep⟩ := h.goes
    obtain ⟨h', hcap, hres⟩ := h.before_commit hl hstep
    have hlat := h.step_latency hl hstep
    obtain ⟨u, hrun, hu, hone, hcap', hres'⟩ := ih h' (by omega)
    exact ⟨u, (run_succ_of_step n hstep).trans hrun, hu, hone, hcap'.trans hcap, sameResults_trans hres hres'⟩

/-- Settles O56: the counter, which the invariant keeps above 0, runs down to the commit, and the next step is exec. -/
theorem acceptedCommandCommitsInTime : Obligations.AcceptedCommandCommitsInTime := by
  intro s i hinv hr hi hquiet
  have hpos : 0 < s.latency := hinv.latency_pos.mp (by rw [hi]; rfl)
  obtain ⟨n, hn⟩ := Nat.exists_eq_succ_of_ne_zero hpos.ne'
  have hpending : Pending i s := ⟨hinv, hr, hi, hquiet⟩
  obtain ⟨u, hrun, hu, hone, hcap, hres, hcodes, hreading, -⟩ := hpending.reaches_commit hn
  obtain ⟨t, hexec⟩ := everyCommandCompletes i u
  have hstep : step u = .next t :=
    (stepRunsTheCommandInFlight u _ i hu.rst hu.inflight (decode_encode i) hone.le).trans hexec
  have hframe := exec_commitFrame hexec
  rw [hn, Nat.succ_sub_one]
  exact ⟨u, t, hrun, hu.inflight, hcap, hres, hcodes, hreading, hexec, run_succ_of_run hrun hstep, hframe.inflight,
    hframe.busy⟩

end Sys2Proof.Machine
end

section
/-! PROOFS. The operand registers stand apart from the command in flight (70_reset_and_hazards.md R264): a write to one of them
and the commit commute, and the next acceptance captures what was written. -/

namespace Sys2Proof.Machine

open Sys2Proof.Statements

variable {s t : State} {i : Instr} {idx : Index}

/-- A, B, C and the raw block, as an acceptance captures them (60_exceptions.md R233). -/
def State.operands (s : State) : Capture := ⟨s.a, s.b, s.c, s.raw⟩

/-- `s` with other operand registers. -/
def State.withOperands (s : State) (o : Capture) : State := { s with a := o.a, b := o.b, c := o.c, raw := o.raw }

@[simp] theorem State.withOperands_flag (s : State) (o : Capture) (f : Flag) : (s.withOperands o).flag f = s.flag f := rfl

/-- A write at an operand's index replaces the operands alone, by what it makes of them alone (20_memory.md R81). -/
theorem exists_hostWrite_eq_withOperands (hidx : idx ∈ operandIndices) (v : Word) :
    ∃ f : Capture → Capture, ∀ s, hostWrite idx v s = s.withOperands (f s.operands) := by
  refine ⟨fun o => (hostWrite idx v (State.reset.withOperands o)).operands, fun s => ?_⟩
  fin_cases hidx <;> rfl

theorem exec_keeps_operands (h : exec i s = .next t) : t.operands = s.operands := by
  obtain ⟨ha, hb, hc, hraw, -⟩ := exec_commitFrame h
  rw [State.operands, ha, hb, hc, hraw, State.operands]

/-- A commit reads the capture latches, never the operand registers (10_state.md R46). -/
theorem exec_withOperands (h : exec i s = .next t) (o : Capture) :
    exec i (s.withOperands o) = .next (t.withOperands o) := by
  cases i
  case update =>
    obtain ⟨hn, rfl⟩ | ⟨hn, rfl⟩ := exec_update_cases h
    · exact exec_update_notReady (s.withOperands o) hn
    · exact exec_update_ready (s.withOperands o) hn
  all_goals cases h; rfl

/-- Settles O33: the commit neither reads nor changes what the write replaces, and an acceptance captures it. -/
theorem operandWritesDoNotDisturbTheCommand : Obligations.OperandWritesDoNotDisturbTheCommand := by
  refine ⟨fun i s t idx v hidx h => ?_, fun s idx v w hidx hb hw => ?_⟩
  all_goals obtain ⟨f, hf⟩ := exists_hostWrite_eq_withOperands hidx v
  · rw [hf s, hf t, exec_keeps_operands h]
    exact exec_withOperands h _
  · have hb' : (hostWrite idx v s).flag .busy = false := by rw [hf s, State.withOperands_flag, hb]
    rw [hostWrite_cmd_of_legal hb' hw, State.accept_cap]

end Sys2Proof.Machine
end

section
/-! PROOFS. Reset (70_reset_and_hazards.md R260, R261): the reset state, and the steps that raise RST, stand under it and lower
it, each of which leaves the block at reset. -/

namespace Sys2Proof.Machine

open Sys2Proof.Statements

variable {s : State} {st : HostStmt}

/-! ### The reset state -/

/-- 10_state.md R45: every register resets to 0 but ID, which is a constant. -/
theorem readReg_reset {r : Reg} (h : r ≠ .id) : readReg r State.reset = 0 := by
  cases r
  case id => exact absurd rfl h
  all_goals rfl

/-- Settles O50: a reserved index reads 0 in every state, and every register but ID is reset to 0. -/
theorem resetState : Obligations.ResetState := by
  refine ⟨fun idx hid => ?_, hostRead_regIndex .id State.reset, rfl, rfl⟩
  cases hr : regAt idx with
  | none => exact hostRead_reserved hr State.reset
  | some r =>
    obtain rfl := regAt_some hr
    rw [hostRead_regIndex]
    exact readReg_reset fun h => hid (congrArg regIndex h)

/-- Settles O53: the reset state is its own block at reset. -/
theorem resetMeetsTheInvariant : Obligations.ResetMeetsTheInvariant :=
  atReset_inv State.reset none 0 false

/-! ### The block at reset -/

/-- Only what no index reads differs from the reset state: RST, HRDATA, the host and acceptCount (log 7). -/
theorem hostRead_atReset (idx : Index) (s : State) (d : Option Word) (p : Nat) (level : Bool) :
    hostRead idx (s.atReset d p level) = hostRead idx State.reset :=
  hostRead_congr fun r _ => by cases r <;> rfl

theorem stepRst_true_eq_atReset (s : State) : stepRst true s = s.atReset none (s.host.position + 1) true := by
  rw [stepRst_true]
  rfl

/-- Settles O51: the step that raises RST leaves the block at reset, whatever was in flight. -/
theorem resetAbandonsTheCommand : Obligations.ResetAbandonsTheCommand := by
  intro s turn h
  obtain ⟨n, hn⟩ := step_eq_execStmt turn h
  rw [execStmt, stepRst_true_eq_atReset] at hn
  exact ⟨_, hn, rfl, rfl, rfl, rfl, rfl, rfl, fun idx => hostRead_atReset idx _ _ _ _, rfl⟩

/-! ### Steps while RST is 1 -/

/-- While RST is 1 the host's statement finds the block at reset. -/
theorem step_eq_execStmt_resetBlock (hr : s.rst = true) (h : NextStmt s st) : step s = execStmt st s.resetBlock :=
  (step_reset hr).trans (hostStep_of_nextStmt (s := s.resetBlock) h)

theorem stepWrite_resetBlock (hr : s.rst = true) (idx : Index) (v : Word) :
    stepWrite idx v s.resetBlock = s.atReset none (s.host.position + 1) true := by
  rw [stepWrite, portWrite_reset idx v (s := s.resetBlock) hr, ← hr]
  rfl

theorem stepRead_resetBlock (hr : s.rst = true) (idx : Index) :
    stepRead idx s.resetBlock = s.atReset (some 0) (s.host.position + 1) true := by
  rw [stepRead, portRead_reset idx (s := s.resetBlock) hr, ← hr]
  rfl

theorem stepRst_false_resetBlock (s : State) :
    stepRst false s.resetBlock = s.atReset none (s.host.position + 1) false := by
  rw [stepRst_false]
  rfl

/-- Settles O52: a write, a read and the fall of RST all leave the block at reset; the read puts 0 on HRDATA. -/
theorem accessesAreIgnoredDuringReset : Obligations.AccessesAreIgnoredDuringReset := by
  refine ⟨fun s idx v hr h => ?_, fun s idx hr h => ?_, fun s hr h => ?_⟩
  all_goals have hstep := step_eq_execStmt_resetBlock hr h
  · rw [execStmt, stepWrite_resetBlock hr] at hstep
    exact ⟨_, hstep, rfl, rfl, fun idx' => hostRead_atReset idx' _ _ _ _⟩
  · rw [execStmt, stepRead_resetBlock hr] at hstep
    exact ⟨_, hstep, rfl, rfl⟩
  · rw [execStmt, stepRst_false_resetBlock] at hstep
    exact ⟨_, hstep, rfl, rfl, rfl, fun idx' => hostRead_atReset idx' _ _ _ _⟩

end Sys2Proof.Machine
end
